-- ==== Sys2Proof/Word.lean ====
section
/-! DEFINITION. The word types of the block: a byte of the serial bus and the 32-bit host word (spec/00_scope.md R8). -/

namespace Sys2Proof

/-- A byte on the serial bus: 8 bits (R8). -/
abbrev Byte := BitVec 8

/-- A host request, status or fault word: 32 bits (R8). -/
abbrev Word := BitVec 32

end Sys2Proof
end

