-- ==== Sys2Proof/Config.lean ====
section
/-! DEFINITION. What an implementation fixes: the constants and the launch parameters of spec/00_scope.md R7, and the
free values (draws and the schedule), which have no body so that no proof can see them. -/

namespace Sys2Proof

/-! ### Constants the spec fixes (R7) -/

def Config.pages : Nat := 8
def Config.columns : Nat := 128
def Config.rowsPerPage : Nat := 8
def Config.glyphBytes : Nat := 8
def Config.glyphFirst : Byte := 0x20
def Config.glyphLast : Byte := 0x7E
def Config.clearBytes : Nat := 128
def Config.endColumn : Byte := 0x7F
def Config.pageBaseOpcode : Byte := 0xB0
def Config.columnRangeOpcode : Byte := 0x21
/-- The controller's maximum input clock in Hz (R7). -/
def Config.fSckMax : Nat := 10000000

/-! ### Agents' turns (R11) -/

/-- A turn of the schedule: the host, the sequencer, or one of the four steps of SHIFT (R11, R139). -/
inductive Turn where
  | host
  | seq
  | shReset
  | shLoad
  | shBit
  | shDone
  deriving DecidableEq, Repr, Inhabited

/-! ### Free values: draws (R10 `draw()`) and open parameters; none has a body -/

/-- The schedule where the state names no next turn: any agent may step next (R11, V12). Log entry 1. -/
opaque Config.schedule : Nat → Turn

/-- The byte shifted in on the data-in line, a draw (R38, R143, V8). Log entry 11. -/
opaque Config.rxDraw : Nat → Byte

/-- What an illegal host read returns, a draw (R62, V11). Log entry 12. -/
opaque Config.readDraw : Nat → Word

/-- The level of MOSI while no bit is presented, a draw (R39, R144, V9). Log entry 9. -/
opaque Config.mosiDraw : Nat → Bool

/-- The panel RAM at power-up, a draw at each address (R71). Log entry 8. -/
opaque Config.panelRam : Nat → Byte

/-- The panel's page at power-up, a draw (R71). Log entry 7. -/
opaque Config.panelPage : BitVec 3

/-- The panel's column at power-up, a draw (R71). Log entry 7. -/
opaque Config.panelCol : BitVec 7

/-- The glyph table `GLYPH`: byte `k` of table entry `n` (R7, R64). Log entry 5. -/
opaque Config.glyph : Nat → Nat → Byte

/-- The platform clock less one, in Hz: `F_REF` is positive and at most `512 * F_SCK_MAX` (R7, R124). Log entry 5. -/
opaque Config.fRefIndex : Fin (5119999999 + 1)

/-- The data-in pad index `DIPO` (R7). Log entry 5. -/
opaque Config.dipo : BitVec 2

/-- The host window's base in words: `HOST_BASE` is 4-byte aligned (R7). Log entry 5. -/
opaque Config.hostBaseWord : Nat

/-- Whether the peripheral is assumed to respond, `PERIPH_LIVE` (R7, R145). Log entry 5. -/
opaque Config.periphLive : Bool

/-! ### The launch parameters (R7, R43) -/

/-- The bit order on the serial bus (R7 `DORD`). -/
inductive BitOrder where
  | msbFirst
  | lsbFirst
  deriving DecidableEq, Repr

/-- The parameter set of a launch (R7, R43), `GLYPH` apart. -/
structure Params where
  /-- The 13 init commands e0 .. e12 (R200). -/
  initTable : List (List Byte)
  /-- The addressing-mode command (R215). -/
  addrModeCmd : List Byte
  /-- The Display On command (R216). -/
  displayOnCmd : List Byte
  /-- The bit order (R123). -/
  dord : BitOrder
  /-- The data-in pad index. -/
  dipo : BitVec 2
  /-- The platform clock in Hz (R124). -/
  fRef : Nat
  /-- The base of the host window (R29). -/
  hostBase : Nat
  /-- The fairness assumption on SHIFT (R145). -/
  periphLive : Bool
  deriving DecidableEq, Repr

/-- The default init table (R201). PRESUMED by the spec itself (G11). Log entry 4. -/
def Config.defaultInitTable : List (List Byte) :=
  [[0xAE], [0xD5, 0x80], [0xA8, 0x3F], [0xD3, 0x00], [0x40], [0x8D, 0x14], [0xA1], [0xC8], [0xDA, 0x12],
   [0x81, 0xCF], [0xD9, 0xF1], [0xDB, 0x40], [0xA4]]

/-- The parameter set of `State.reset`: the default tables of R201, `DORD` of R123, and free values for the parameters
without a default. Log entries 4 and 5. -/
def Params.default : Params where
  initTable := Config.defaultInitTable
  addrModeCmd := [0x20, 0x02]
  displayOnCmd := [0xAF]
  dord := .msbFirst
  dipo := Config.dipo
  fRef := Config.fRefIndex.val + 1
  hostBase := 4 * Config.hostBaseWord
  periphLive := Config.periphLive

/-- All fifteen parameter commands, by role: e0 .. e12, then the addressing-mode command, then Display On (R200). -/
def Params.commands (p : Params) : List (List Byte) := p.initTable ++ [p.addrModeCmd, p.displayOnCmd]

end Sys2Proof
end

