-- ==== Sys2Proof/Syntax.lean ====
section
/-! DEFINITION. The instructions: one constructor per row of spec/opcode_table.json, ten host requests (REQ32, R91) and
seventeen controller commands (CTL8, R97, R200). -/

namespace Sys2Proof

/-- The two states of the mode line (R14): following bytes are commands or display data. -/
inductive Mode where
  | cmd
  | dat
  deriving DecidableEq, Repr

/-- The instructions of the block. The first ten are host requests; the rest are the controller command bytes the block
sends, which the reference panel executes. -/
inductive Instr where
  /-- REQ32 0x1 (R130). -/
  | configure
  /-- REQ32 0x2: true opens a frame (R134), false closes one (R135). -/
  | select (a : Bool)
  /-- REQ32 0x3 (R133). -/
  | setMode (m : Mode)
  /-- REQ32 0x4 (R136). -/
  | sendByte (v : Byte)
  /-- REQ32 0x5 (R137). -/
  | waitIdle
  /-- REQ32 0x8 (R165). -/
  | init
  /-- REQ32 0x9 (R167): cell index and page, unchecked at decode (R92). -/
  | setAddress (x p : Byte)
  /-- REQ32 0xA (R170). -/
  | clear (mask : Byte)
  /-- REQ32 0xB (R173). -/
  | putChar (c : Byte)
  /-- REQ32 0xC (R178). -/
  | test (id : Byte)
  /-- CTL8 e0 (R202). -/
  | displayOff
  /-- CTL8 e1 (R203). -/
  | setClockDiv (div : Byte)
  /-- CTL8 e2 (R204). -/
  | setMultiplex (ratio : Byte)
  /-- CTL8 e3 (R205). -/
  | setDisplayOffset (offset : Byte)
  /-- CTL8 e4 (R206): the line stands in the opcode's low six bits. -/
  | setStartLine (line : BitVec 6)
  /-- CTL8 e5 (R207). -/
  | chargePump (enable : Byte)
  /-- CTL8 e6 (R208). -/
  | segmentRemap
  /-- CTL8 e7 (R209). -/
  | comScanDir
  /-- CTL8 e8 (R210). -/
  | setComPins (config : Byte)
  /-- CTL8 e9 (R211). -/
  | setContrast (contrast : Byte)
  /-- CTL8 e10 (R212). -/
  | setPrecharge (period : Byte)
  /-- CTL8 e11 (R213). -/
  | setVcomh (level : Byte)
  /-- CTL8 e12 (R214). -/
  | entireDisplayResume
  /-- CTL8 `ADDR_MODE_CMD` (R215): its parameter bytes, one under the default table. -/
  | setAddrMode (mode : List Byte)
  /-- CTL8 `DISPLAY_ON_CMD` (R216): its parameter bytes, none under the default table. -/
  | displayOn (extra : List Byte)
  /-- CTL8 0xB0 + p (R217). -/
  | setPage (p : BitVec 3)
  /-- CTL8 0x21 (R218). -/
  | setColumnRange (first last : Byte)
  deriving DecidableEq, Repr

/-- The source's caller-facing name for set_address (R15, R101): the same request. -/
def Instr.setCursor (x p : Byte) : Instr := .setAddress x p

/-- The pseudo-request `PUT_STRING s`: one `PUT_CHAR` a byte, in order; the string ends before a 0x00 byte
(R101, R176). -/
def Instr.putString (s : List Byte) : List Instr := (s.takeWhile (fun c => c != 0)).map Instr.putChar

/-- What an instruction is written as: one 32-bit host word, or the bytes of a controller command (R90). -/
inductive Encoding where
  | req (w : Word)
  | ctl (bs : List Byte)
  deriving DecidableEq, Repr

end Sys2Proof
end

