-- ==== Sys2Proof/Decode.lean ====
section
/-! DEFINITION. The decoder of host request words (spec/30_encoding.md R96) and of controller command bytes (R97-R99,
spec/20_memory.md R72), both total, and the encoder written from the same tables. -/

namespace Sys2Proof

/-- Why a word or a byte string is no instruction. -/
inductive DecodeError where
  /-- A request word with `w[7:4]` or `w[31:24]` not zero (R93). -/
  | reservedBits
  /-- A request word with an unassigned OP (R94). -/
  | unassignedOp (op : BitVec 4)
  /-- A request word with a must-be-zero operand bit set (R93). -/
  | operandBits
  /-- No controller command byte. -/
  | noBytes
  /-- A controller command with fewer bytes than its opcode asks for (R99). -/
  | truncated
  /-- An opcode the block never sends (X6). -/
  | unknownCommand (op : Byte)
  /-- Bytes left over after a controller command. -/
  | trailingBytes
  deriving DecidableEq, Repr

/-! ### Request words -/

/-- `OP = w[3:0]` (R26). -/
def reqOp (w : Word) : BitVec 4 := w.extractLsb' 0 4

/-- `ARG0 = w[15:8]` (R26). -/
def reqArg0 (w : Word) : Byte := w.extractLsb' 8 8

/-- `ARG1 = w[23:16]` (R26). -/
def reqArg1 (w : Word) : Byte := w.extractLsb' 16 8

/-- The mode a `SET_MODE` operand names: 0 is CMD, 1 is DAT (R92). -/
def modeOfBit (b : Bool) : Mode := if b then .dat else .cmd

/-- The level of the mode line: CMD is 0, DAT is 1 (R39). -/
def bitOfMode : Mode → Bool
  | .cmd => false
  | .dat => true

/-- `w[7:4]` and `w[31:24]` are zero (R93). -/
def reservedClear (w : Word) : Bool := w.extractLsb' 4 4 == 0 && w.extractLsb' 24 8 == 0

/-- A request whose must-be-zero operand bits are zero, or the reason it is illegal (R93). -/
def operandsClear (ok : Bool) (i : Instr) : Except DecodeError Instr := if ok then .ok i else .error .operandBits

/-- The request of an OP and its two operand fields (R91, R92, R96). -/
def decodeOp (op : BitVec 4) (a0 a1 : Byte) : Except DecodeError Instr :=
  match op.toNat with
  | 0x1 => operandsClear (a0 == 0 && a1 == 0) .configure
  | 0x2 => operandsClear (a0.extractLsb' 1 7 == 0 && a1 == 0) (.select (a0.getLsbD 0))
  | 0x3 => operandsClear (a0.extractLsb' 1 7 == 0 && a1 == 0) (.setMode (modeOfBit (a0.getLsbD 0)))
  | 0x4 => operandsClear (a1 == 0) (.sendByte a0)
  | 0x5 => operandsClear (a0 == 0 && a1 == 0) .waitIdle
  | 0x8 => operandsClear (a0 == 0 && a1 == 0) .init
  | 0x9 => .ok (.setAddress a0 a1)
  | 0xA => operandsClear (a1 == 0) (.clear a0)
  | 0xB => operandsClear (a1 == 0) (.putChar a0)
  | 0xC => operandsClear (a1 == 0) (.test a0)
  | _ => .error (.unassignedOp op)

/-- The decoder of request words, total on all 2^32 words (R96). -/
def decodeReq (w : Word) : Except DecodeError Instr :=
  if reservedClear w then decodeOp (reqOp w) (reqArg0 w) (reqArg1 w) else .error .reservedBits

/-! ### Controller command bytes -/

/-- A page-select opcode: `op[7:3] = 10110b` (R98). -/
def isPageSelect (op : Byte) : Bool := op.extractLsb' 3 5 == 0b10110#5

/-- The length in bytes of the command an opcode starts, by the opcode alone (R72 `CMDLEN`). -/
def cmdLen (p : Params) (op : Byte) : Nat :=
  if isPageSelect op then 1
  else if op = Config.columnRangeOpcode then 3
  else match p.commands.find? (fun c => c.head? == some op) with
    | some c => c.length
    | none => 1

/-- The role of an opcode among the parameter commands: the index of the one it heads (R200). -/
def roleOf (p : Params) (op : Byte) : Option Nat := p.commands.findIdx? (fun c => c.head? == some op)

/-- The opcode byte of the parameter command of a role. -/
def roleOpcode (p : Params) (k : Nat) : Byte := (p.commands.getD k []).headD 0

/-- The high bits of the start-line opcode, which holds the line in its low six bits (R98, R206; `01b` under the default
table). PRESUMED layout (G4, G12). Log entry 18. -/
def startLineHigh (p : Params) : BitVec 2 := (roleOpcode p 4).extractLsb' 6 2

/-- The start-line opcode for a line (R206). -/
def startLineOpcode (p : Params) (line : BitVec 6) : Byte := startLineHigh p ++ line

/-- The parameter command of a role, from its opcode and its parameter bytes (R200, R215, R216). -/
def commandOfRole : Nat → Byte → List Byte → Option Instr
  | 0, _, [] => some .displayOff
  | 1, _, [v] => some (.setClockDiv v)
  | 2, _, [v] => some (.setMultiplex v)
  | 3, _, [v] => some (.setDisplayOffset v)
  | 4, op, [] => some (.setStartLine (op.extractLsb' 0 6))
  | 5, _, [v] => some (.chargePump v)
  | 6, _, [] => some .segmentRemap
  | 7, _, [] => some .comScanDir
  | 8, _, [v] => some (.setComPins v)
  | 9, _, [v] => some (.setContrast v)
  | 10, _, [v] => some (.setPrecharge v)
  | 11, _, [v] => some (.setVcomh v)
  | 12, _, [] => some .entireDisplayResume
  | 13, _, ps => some (.setAddrMode ps)
  | 14, _, ps => some (.displayOn ps)
  | _, _, _ => none

/-- The command an opcode and its parameter bytes make (R97, R98). -/
def commandOf (p : Params) (op : Byte) (ps : List Byte) : Option Instr :=
  if isPageSelect op then
    match ps with
    | [] => some (.setPage (op.extractLsb' 0 3))
    | _ => none
  else if op = Config.columnRangeOpcode then
    match ps with
    | [a, b] => some (.setColumnRange a b)
    | _ => none
  else match roleOf p op with
    | some k => commandOfRole k op ps
    | none =>
      if op.extractLsb' 6 2 = startLineHigh p ∧ ps = [] then some (.setStartLine (op.extractLsb' 0 6)) else none

/-- The decoder of controller commands: the first command of a byte string and the bytes after it, or why there is
none (R99). -/
def decodeCtl (p : Params) : List Byte → Except DecodeError (Instr × List Byte)
  | [] => .error .noBytes
  | op :: rest =>
    let n := cmdLen p op - 1
    if rest.length < n then .error .truncated
    else match commandOf p op (rest.take n) with
      | some i => .ok (i, rest.drop n)
      | none => .error (.unknownCommand op)

/-- The decoder of either format (R90): a request word, or the bytes of exactly one controller command. -/
def decode (p : Params) : Encoding → Except DecodeError Instr
  | .req w => decodeReq w
  | .ctl bs =>
    match decodeCtl p bs with
    | .ok (i, []) => .ok i
    | .ok (_, _ :: _) => .error .trailingBytes
    | .error e => .error e

/-- The instruction of an opcode-table row whose bits are `w`, numbered as spec/opcode_table.json numbers them: a 32-bit
row is a request word, a shorter one the bytes of a controller command under the default table, the bits above `nbits`
zero. -/
def decodeTableWord (nbits w : Nat) : Option Instr :=
  if nbits = 32 then
    match decodeReq (BitVec.ofNat 32 w) with
    | .ok i => some i
    | .error _ => none
  else
    let v := w % 2 ^ nbits
    match decodeCtl Params.default [BitVec.ofNat 8 v, BitVec.ofNat 8 (v / 256), BitVec.ofNat 8 (v / 65536)] with
    | .ok (i, _) => some i
    | .error _ => none

/-! ### The encoder -/

/-- A request word: `OP | ARG0 << 8 | ARG1 << 16` (R100). -/
def reqWord (op : BitVec 4) (a0 a1 : Byte) : Word :=
  op.setWidth 32 ||| (a0.setWidth 32 <<< 8) ||| (a1.setWidth 32 <<< 16)

/-- A one-bit operand in `ARG0[0]` (R92). -/
def bitArg (b : Bool) : Byte := if b then 1 else 0

/-- The word or the bytes of an instruction (R91, R97, R98). -/
def encode (p : Params) : Instr → Encoding
  | .configure => .req (reqWord 0x1 0 0)
  | .select a => .req (reqWord 0x2 (bitArg a) 0)
  | .setMode m => .req (reqWord 0x3 (bitArg (bitOfMode m)) 0)
  | .sendByte v => .req (reqWord 0x4 v 0)
  | .waitIdle => .req (reqWord 0x5 0 0)
  | .init => .req (reqWord 0x8 0 0)
  | .setAddress x pg => .req (reqWord 0x9 x pg)
  | .clear mask => .req (reqWord 0xA mask 0)
  | .putChar c => .req (reqWord 0xB c 0)
  | .test id => .req (reqWord 0xC id 0)
  | .displayOff => .ctl [roleOpcode p 0]
  | .setClockDiv v => .ctl [roleOpcode p 1, v]
  | .setMultiplex v => .ctl [roleOpcode p 2, v]
  | .setDisplayOffset v => .ctl [roleOpcode p 3, v]
  | .setStartLine line => .ctl [startLineOpcode p line]
  | .chargePump v => .ctl [roleOpcode p 5, v]
  | .segmentRemap => .ctl [roleOpcode p 6]
  | .comScanDir => .ctl [roleOpcode p 7]
  | .setComPins v => .ctl [roleOpcode p 8, v]
  | .setContrast v => .ctl [roleOpcode p 9, v]
  | .setPrecharge v => .ctl [roleOpcode p 10, v]
  | .setVcomh v => .ctl [roleOpcode p 11, v]
  | .entireDisplayResume => .ctl [roleOpcode p 12]
  | .setAddrMode ps => .ctl (roleOpcode p 13 :: ps)
  | .displayOn ps => .ctl (roleOpcode p 14 :: ps)
  | .setPage pg => .ctl [0b10110#5 ++ pg]
  | .setColumnRange a b => .ctl [Config.columnRangeOpcode, a, b]

end Sys2Proof
end

