-- ==== Sys2Proof/WellFormed.lean ====
section
/-! DEFINITION. Which parameter sets a launch accepts (spec/42_controller_commands.md R200, spec/40_transport.md R124)
and which instructions the tables of a parameter set can write. -/

namespace Sys2Proof

/-- The lengths the source gives e0 .. e12 (R200). -/
def Config.initLengths : List Nat := [1, 2, 2, 2, 1, 2, 1, 1, 2, 2, 2, 2, 1]

/-- The first bytes of the parameter commands. -/
def Params.opcodes (p : Params) : List Byte := p.commands.filterMap List.head?

/-- The tables are well-formed: lengths as listed, and first bytes that make `CMDLEN` a function (R200). -/
def Params.tablesWf (p : Params) : Bool :=
  p.initTable.map List.length == Config.initLengths && decide (1 ≤ p.addrModeCmd.length) &&
    decide (1 ≤ p.displayOnCmd.length) && decide p.opcodes.Nodup &&
    p.opcodes.all (fun op => !isPageSelect op && op != Config.columnRangeOpcode)

/-- The platform clock is positive and an 8-bit divisor exists for it (R7, R124). -/
def Params.clockWf (p : Params) : Bool := decide (0 < p.fRef) && decide (p.fRef ≤ 512 * Config.fSckMax)

/-- A parameter set a launch accepts (R200, R124), with an aligned host window (R7). -/
def Params.wf (p : Params) : Bool := p.tablesWf && p.clockWf && decide (p.hostBase % 4 = 0)

/-- The instruction can be written under the tables of `p`: the addressing-mode and Display On commands have as many
parameter bytes as their tables give them, and a start line's opcode is no other command's (R97, R200, R206). -/
def Instr.wf (p : Params) : Instr → Bool
  | .configure => true
  | .select _ => true
  | .setMode _ => true
  | .sendByte _ => true
  | .waitIdle => true
  | .init => true
  | .setAddress _ _ => true
  | .clear _ => true
  | .putChar _ => true
  | .test _ => true
  | .displayOff => true
  | .setClockDiv _ => true
  | .setMultiplex _ => true
  | .setDisplayOffset _ => true
  | .setStartLine line =>
    let op := startLineOpcode p line
    !isPageSelect op && op != Config.columnRangeOpcode && (roleOf p op == none || roleOf p op == some 4)
  | .chargePump _ => true
  | .segmentRemap => true
  | .comScanDir => true
  | .setComPins _ => true
  | .setContrast _ => true
  | .setPrecharge _ => true
  | .setVcomh _ => true
  | .entireDisplayResume => true
  | .setAddrMode ps => decide (ps.length + 1 = p.addrModeCmd.length)
  | .displayOn ps => decide (ps.length + 1 = p.displayOnCmd.length)
  | .setPage _ => true
  | .setColumnRange _ _ => true

end Sys2Proof
end

