-- ==== Sys2Proof/Machine/State.lean ====
section
/-! DEFINITION. The state: the block's record S (spec/10_state.md R20-R40), the reference panel (spec/20_memory.md R71),
the launch parameters (R43), and the model's own inputs and free-value counter; the reasons a step can stop; reset. -/

namespace Sys2Proof.Machine

/-! ### The pieces of the block's record -/

/-- The display protocol engine's state (R22). -/
inductive SeqState where
  | uninit
  | poweredOff
  | initializing
  | ready
  deriving DecidableEq, Repr

/-- The micro-op alphabet (R23). -/
inductive MicroOp where
  | swrst
  | waitSwrst
  | program
  | setDc (m : Mode)
  | select (a : Bool)
  | send (v : Byte)
  | waitIdle
  | state (s : SeqState)
  deriving DecidableEq, Repr

/-- The causes a fault records, in the order of their bits (R28). -/
inductive FaultCause where
  | illegalRequest
  | illegalAccess
  | requestWhileBusy
  | notConfigured
  | reconfigure
  | reinit
  | notReady
  | addressOutOfRange
  | glyphOutOfRange
  | nestedFrame
  | unmatchedClose
  | modeUnset
  | modeChangeInFrame
  | byteOutsideFrame
  | truncatedFrame
  deriving DecidableEq, Repr

/-- The control fields of the serial peripheral (R30). -/
structure PCtrl where
  swrst : Bool
  enable : Bool
  master : Bool
  cpol : Bool
  cpha : Bool
  dord : Bool
  dipo : BitVec 2
  rxen : Bool
  deriving DecidableEq, Repr

/-- Every control field 0 (R42, R140). -/
def PCtrl.zero : PCtrl where
  swrst := false
  enable := false
  master := false
  cpol := false
  cpha := false
  dord := false
  dipo := 0
  rxen := false

/-- An occupied shift register: a byte and how many of its bits are still to send (R37). -/
structure ShiftReg where
  value : Byte
  left : Fin 9
  deriving DecidableEq, Repr

/-- The level of the serial clock pin: not driven, low, or high (R39). -/
inductive SckLevel where
  | z
  | low
  | high
  deriving DecidableEq, Repr

/-- The serial data output: a bit being presented, or none, when its level is a draw (R39, R144). Log entry 9. -/
inductive MosiPin where
  | undriven
  | bit (b : Bool)
  deriving DecidableEq, Repr

/-- A bus event (R40). -/
inductive Event where
  | frameOpen (m : Mode)
  | byte (m : Mode) (v : Byte)
  | frameClose
  deriving DecidableEq, Repr

/-! ### The reference panel (R71) -/

/-- The panel's command parser (R72): idle, or an opcode and the parameter bytes so far. -/
inductive Parse where
  | idle
  | params (op : Byte) (got : List Byte)
  deriving DecidableEq, Repr

/-- The display RAM: cells in rising order of address `128 * page + column`; an address with no cell has not been written
since power-up (R71). Log entry 8. -/
abbrev Memory := List Host.Cell

/-- The external display controller: its RAM, cursor, column window and parser (R71). -/
structure Panel where
  ram : Memory
  page : BitVec 3
  col : BitVec 7
  winStart : BitVec 7
  winEnd : BitVec 7
  parse : Parse
  deriving DecidableEq, Repr

/-- The panel at power-up (R71): RAM, page and column are draws. Log entries 7 and 8. -/
def Panel.powerUp : Panel where
  ram := []
  page := Config.panelPage
  col := Config.panelCol
  winStart := 0
  winEnd := 127
  parse := .idle

/-! ### Host accesses (R61) -/

/-- A read, or a write of a value. -/
inductive HostOp where
  | read
  | write (v : Word)
  deriving DecidableEq, Repr

/-- A host access of `width` bytes at an offset of the 16-byte host window (R29, R61). Log entry 14. -/
structure HostAccess where
  off : BitVec 4
  width : Nat
  op : HostOp
  deriving DecidableEq, Repr

/-- The state of the machine. -/
structure State where
  /-- The engine's state (R22). -/
  seqState : SeqState
  /-- The micro-op queue (R23). -/
  q : List MicroOp
  /-- A request is running (R24). -/
  busy : Bool
  /-- The sticky fault causes (R25). -/
  fault : BitVec 16
  /-- A request was refused, sticky (R25). -/
  refused : Bool
  /-- The peripheral's control fields (R30). -/
  pctrl : PCtrl
  /-- The baud divisor (R31). -/
  pbaud : BitVec 8
  /-- Transmit data register empty (R32). -/
  dre : Bool
  /-- Transmit complete (R33). -/
  txc : Bool
  /-- Receive complete (R34). -/
  rxc : Bool
  /-- Software reset in progress (R35). -/
  swrstBusy : Bool
  /-- The transmit data register (R36). -/
  txbuf : Option Byte
  /-- The transmit shift register (R37). -/
  shift : Option ShiftReg
  /-- The receive data register (R38). -/
  rxbuf : Option Byte
  /-- The chip-select pin: true is level 1, released (R39). -/
  csN : Bool
  /-- The mode line, unwritten until the first `u_SET_DC` (R39). -/
  dc : Option Mode
  /-- The serial clock pin (R39). -/
  sck : SckLevel
  /-- The serial data output pin (R39). -/
  mosi : MosiPin
  /-- The bus trace, oldest event first (R40). -/
  trace : List Event
  /-- The reference panel (R71). -/
  panel : Panel
  /-- The launch parameters, which no step writes (R43). Log entry 3. -/
  params : Params
  /-- MODEL: the host accesses to come, oldest first. Log entry 13. -/
  hostIn : List HostAccess
  /-- MODEL: what host reads returned, oldest first. Log entry 13. -/
  replies : List Word
  /-- MODEL: the turns to be taken next; when none is left the schedule is a free value. Log entry 1. -/
  turns : List Turn
  /-- MODEL: the number of steps taken, the index of every free value. Log entry 26. -/
  tick : Nat
  deriving DecidableEq, Repr

/-- The reasons the machine stops. -/
inductive Fault where
  /-- Raised by SH_DONE when a byte completes while the mode line was never written: the trace has no event for such a
  byte (R40). Safe: no run reaches it, since a frame opens only with a mode set (R134). Log entry 19. -/
  | byteWithModeUnwritten
  deriving DecidableEq, Repr

/-- The reasons the model gives no meaning. -/
inductive Refusal where
  /-- Raised by an arm of `exec` that has no meaning yet. Safe. -/
  | notModelled (mnemonic : String)
  /-- Raised by `launch` for an ill-formed parameter set (R200, R124). Safe. -/
  | illFormedParameters
  deriving DecidableEq, Repr

/-- The block after block reset and the panel after power-up, with a parameter set (R42, R71, R260, R261). -/
def State.ofParams (p : Params) : State where
  seqState := .uninit
  q := []
  busy := false
  fault := 0
  refused := false
  pctrl := .zero
  pbaud := 0
  dre := true
  txc := false
  rxc := false
  swrstBusy := false
  txbuf := none
  shift := none
  rxbuf := none
  csN := true
  dc := none
  sck := .z
  mosi := .undriven
  trace := []
  panel := .powerUp
  params := p
  hostIn := []
  replies := []
  turns := []
  tick := 0

/-- The machine right after reset, under the default parameter set (R42, R201). -/
def State.reset : State := .ofParams .default

end Sys2Proof.Machine
end

