-- ==== Sys2Proof/Machine/Ops.lean ====
section
/-! DEFINITION. The shared operations: display RAM, the fault and refusal actions (spec/60_exceptions.md R232, R233), block
reset (spec/70_reset_and_hazards.md R260), the acceptance of a request (spec/41_sequencer.md R160), and the bookkeeping of
a step. -/

namespace Sys2Proof.Machine

/-! ### Display RAM -/

/-- The byte written at an address, if any was since power-up (R71). -/
def Memory.read : Memory → Nat → Option Byte
  | [], _ => none
  | (b, v) :: r, a => if b = a then some v else Memory.read r a

/-- Writes a byte, keeping the cells in rising order of address. -/
def Memory.write : Memory → Nat → Byte → Memory
  | [], a, v => [(a, v)]
  | (b, w) :: r, a, v =>
    if a < b then (a, v) :: (b, w) :: r
    else if a = b then (a, v) :: r
    else (b, w) :: Memory.write r a v

/-- The canonical form: addresses strictly rising, every one of the 8 x 128 bytes of the panel (R71). -/
def Memory.wf : Memory → Bool
  | [] => true
  | [(a, _)] => decide (a < Config.pages * Config.columns)
  | (a, _) :: (b, w) :: r => decide (a < b) && Memory.wf ((b, w) :: r)

/-- The address of a column of a page. -/
def ramAddr (page : BitVec 3) (col : BitVec 7) : Nat := page.toNat * Config.columns + col.toNat

/-- The byte at a place of the display RAM: the byte written there, or the draw of power-up (R71). -/
def Panel.ramByte (pn : Panel) (page : BitVec 3) (col : BitVec 7) : Byte :=
  (pn.ram.read (ramAddr page col)).getD (Config.panelRam (ramAddr page col))

/-- The pixel at a row 0..63 and a column: bit `row % 8` of the byte of page `row / 8`, bit 0 the top row (R77).
PRESUMED (G3). Log entry 27. -/
def Panel.pixel (pn : Panel) (row : BitVec 6) (col : BitVec 7) : Bool :=
  (pn.ramByte (row.extractLsb' 3 3) col).getLsbD (row.toNat % Config.rowsPerPage)

/-! ### Faults, refusals and reset -/

/-- The bit of a fault cause (R28). -/
def FaultCause.code : FaultCause → Nat
  | .illegalRequest => 0
  | .illegalAccess => 1
  | .requestWhileBusy => 2
  | .notConfigured => 3
  | .reconfigure => 4
  | .reinit => 5
  | .notReady => 6
  | .addressOutOfRange => 7
  | .glyphOutOfRange => 8
  | .nestedFrame => 9
  | .unmatchedClose => 10
  | .modeUnset => 11
  | .modeChangeInFrame => 12
  | .byteOutsideFrame => 13
  | .truncatedFrame => 14

/-- The set that holds one cause. -/
def FaultCause.mask (c : FaultCause) : BitVec 16 := 1 <<< c.code

/-- The fault action: the bit is set, the queue emptied, BUSY cleared, and nothing else changes (R232). The block has no
return from it (R238): only block reset clears the set. -/
def State.raise (s : State) (c : FaultCause) : State :=
  { s with fault := s.fault ||| c.mask, q := [], busy := false }

/-- The refusal action: REFUSED is set and nothing else changes (R233). -/
def State.refuse (s : State) : State := { s with refused := true }

/-- Faulted or refused: the block takes no request and SEQ has no step (R25, R234). -/
def State.quiescent (s : State) : Bool := decide (s.fault ≠ 0) || s.refused

/-- Block reset: every field of S at its reset value; the parameters and the panel are untouched (R260, R261). It is the
only thing that clears FAULT and REFUSED, and no request or access causes it. Log entry 20. -/
def State.blockReset (s : State) : State :=
  { State.ofParams s.params with
    panel := s.panel, hostIn := s.hostIn, replies := s.replies, turns := s.turns, tick := s.tick }

/-- A launch: block reset under a parameter set, or a refusal of an ill-formed one (R200, R124). -/
def launch (p : Params) : Host.Outcome State Fault Refusal :=
  if p.wf then .next (.ofParams p) else .refused .illFormedParameters

/-! ### Acceptance of a request -/

/-- What a request's `Expand` gives: a micro-op list, a fault, or a refusal (R160). -/
inductive Expansion where
  | ops (l : List MicroOp)
  | fault (c : FaultCause)
  | refuse
  deriving DecidableEq, Repr

/-- A legal write of a decodable request (R160): ignored in a quiescent block (R234), a fault in a busy one, and otherwise
the expansion becomes the queue. -/
def acceptRequest (e : Expansion) (s : State) : State :=
  if s.quiescent then s
  else if s.busy then s.raise .requestWhileBusy
  else match e with
    | .ops l => { s with q := l, busy := decide (l ≠ []) }
    | .fault c => s.raise c
    | .refuse => s.refuse

/-- A legal write of a word that decodes to no request (R160, R94). -/
def rejectWord (s : State) : State := acceptRequest (.fault .illegalRequest) s

/-! ### Bus events and the bookkeeping of a step -/

/-- Appends an event to the bus trace (R10, R40). -/
def State.emit (s : State) (e : Event) : State := { s with trace := s.trace ++ [e] }

/-- The turn the schedule takes next: the one the state names, or a free value (R11). Log entry 1. -/
def State.nextTurn (s : State) : Turn :=
  match s.turns with
  | t :: _ => t
  | [] => Config.schedule s.tick

/-- Takes the turn off the schedule and counts the step. -/
def State.beginStep (s : State) : State := { s with turns := s.turns.tail, tick := s.tick + 1 }

/-- Adds what a host read returned. -/
def State.reply (s : State) (w : Word) : State := { s with replies := s.replies ++ [w] }

/-- What a micro-op does when it is tried: it completes, it holds, or it raises a fault (R121). -/
inductive MicroResult where
  | done (s : State)
  | hold
  | raise (c : FaultCause)
  deriving DecidableEq, Repr

end Sys2Proof.Machine
end

