-- ==== Sys2Proof/Machine/Operands.lean ====
section
/-! DEFINITION. The operand forms and the byte strings of the sequencer: the arithmetic of spec/41_sequencer.md R179, the
glyph port (spec/20_memory.md R64), the frame macros (R161, R162), the address engine (R168), the clear (R170), the init
sequence (R165), and the baud divisor (spec/40_transport.md R124). -/

namespace Sys2Proof.Machine

/-! ### Arithmetic (R179) -/

/-- The controller column a cell starts at: `8 * x` (R168). -/
def columnOfCell (x : Byte) : Byte := 8 * x

/-- The page-select opcode: `0xB0 + p` (R98, R168). -/
def pageOpcode (p : Byte) : Byte := Config.pageBaseOpcode + p

/-- The table entry of a character code: `c - 0x20` (R64). -/
def glyphEntry (c : Byte) : Nat := c.toNat - Config.glyphFirst.toNat

/-- The mask selects a page: `mask[p] = 1` (R170). -/
def maskBit (mask : Byte) (p : Nat) : Bool := mask.getLsbD p

/-- The operands of `SET_ADDRESS` are in range: `x` at most 15 and `p` at most 7 (R167). -/
def addressInRange (x p : Byte) : Bool := decide (x ≤ 15) && decide (p ≤ 7)

/-- The smallest divisor whose serial clock does not exceed `F_SCK_MAX`:
`max(0, ceil(F_REF / (2 * F_SCK_MAX)) - 1)` (R124). Log entry 24. -/
def baudOf (fRef : Nat) : Nat := (fRef + (2 * Config.fSckMax - 1)) / (2 * Config.fSckMax) - 1

/-- `BAUD` as the 8-bit divisor, or none where no 8-bit divisor exists (R124). -/
def baud? (fRef : Nat) : Option (BitVec 8) :=
  if fRef ≤ 512 * Config.fSckMax then some (BitVec.ofNat 8 (baudOf fRef)) else none

/-- The divisor `u_PROGRAM` writes (R128): `BAUD` of the launch parameters. -/
def programmedBaud (p : Params) : BitVec 8 := BitVec.ofNat 8 (baudOf p.fRef)

/-- The DORD field's value for a bit order: 0 is MSB first (R128). -/
def dordBit : BitOrder → Bool
  | .msbFirst => false
  | .lsbFirst => true

/-! ### Byte strings -/

/-- A string of bytes 0x00 (R9 `zeros`). -/
def zeros (n : Nat) : List Byte := List.replicate n 0

/-- The glyph port: the eight bytes of a character, one a column (R64). -/
def glyph (c : Byte) : List Byte := (List.range Config.glyphBytes).map (Config.glyph (glyphEntry c))

/-- The page-select command (R217). -/
def pageSelectBytes (p : Byte) : List Byte := [pageOpcode p]

/-- The column-range command (R218). -/
def columnRangeBytes (x : Byte) : List Byte := [Config.columnRangeOpcode, columnOfCell x, Config.endColumn]

/-! ### Frames and expansions -/

/-- A frame in a mode (R161, R162): the mode line, select, the bytes, the wait, deselect. -/
def frame (m : Mode) (bs : List Byte) : List MicroOp :=
  [.setDc m, .select true] ++ bs.map .send ++ [.waitIdle, .select false]

/-- A Command-mode frame `CMD(bs)` (R161). -/
def cmdFrame (bs : List Byte) : List MicroOp := frame .cmd bs

/-- A Data-mode frame `DATA(bs)` (R162). -/
def dataFrame (bs : List Byte) : List MicroOp := frame .dat bs

/-- The micro-ops of the transport's configure (R120, R130). -/
def configureOps : List MicroOp := [.swrst, .waitSwrst, .program, .state .poweredOff]

/-- The address engine `ADDR(x, p)`: mode, page, column range (R168). -/
def addressOps (t : Params) (x p : Byte) : List MicroOp :=
  cmdFrame t.addrModeCmd ++ cmdFrame (pageSelectBytes p) ++ cmdFrame (columnRangeBytes x)

/-- One page of a clear: its address and a frame of 128 zero bytes (R170). -/
def clearPageOps (t : Params) (p : Nat) : List MicroOp :=
  addressOps t 0 (BitVec.ofNat 8 p) ++ dataFrame (zeros Config.clearBytes)

/-- The clear `CLR(mask)`: the selected pages in ascending order (R170). -/
def clearOps (t : Params) (mask : Byte) : List MicroOp :=
  (List.range Config.pages).flatMap fun p => if maskBit mask p then clearPageOps t p else []

/-- The power-up sequence after configure (R165). -/
def powerUpOps (t : Params) : List MicroOp :=
  [.state .initializing] ++ t.initTable.flatMap cmdFrame ++ clearOps t 0xFF ++ cmdFrame t.addrModeCmd ++
    cmdFrame t.displayOnCmd ++ [.state .ready]

/-- The whole expansion of `INIT`: configure first where the transport is not configured (R165). -/
def initOps (t : Params) (s : SeqState) : List MicroOp :=
  (if s = .uninit then configureOps else []) ++ powerUpOps t

end Sys2Proof.Machine
end

