-- ==== Sys2Proof/Machine/Engine.lean ====
section
/-! DEFINITION. The acceptance of the display engine's requests: INIT, SET_ADDRESS, CLEAR, PUT_CHAR and TEST
(spec/41_sequencer.md R165, R167, R170, R173, R178). -/

namespace Sys2Proof.Machine

/-- `Expand(INIT)` (R165). -/
def expandInit (s : State) : Expansion :=
  if s.seqState = .initializing ∨ s.seqState = .ready then .fault .reinit else .ops (initOps s.params s.seqState)

/-- `INIT` (R165). -/
def execInit (s : State) : Host.Outcome State Fault Refusal := .next (acceptRequest (expandInit s) s)

/-- `Expand(SET_ADDRESS x, p)`: the state check, then the operand check (R167). -/
def expandSetAddress (x p : Byte) (s : State) : Expansion :=
  if s.seqState ≠ .ready then .fault .notReady
  else if !addressInRange x p then .fault .addressOutOfRange
  else .ops (addressOps s.params x p)

/-- `SET_ADDRESS x, p` (R167). -/
def execSetAddress (x p : Byte) (s : State) : Host.Outcome State Fault Refusal :=
  .next (acceptRequest (expandSetAddress x p s) s)

/-- `Expand(CLEAR mask)` (R170). -/
def expandClear (mask : Byte) (s : State) : Expansion :=
  if s.seqState ≠ .ready then .fault .notReady else .ops (clearOps s.params mask)

/-- `CLEAR mask` (R170). -/
def execClear (mask : Byte) (s : State) : Host.Outcome State Fault Refusal :=
  .next (acceptRequest (expandClear mask s) s)

/-- `Expand(PUT_CHAR c)`: a high-bit code is a silent no-op, a code without a glyph a fault (R173). -/
def expandPutChar (c : Byte) (s : State) : Expansion :=
  if s.seqState ≠ .ready then .fault .notReady
  else if c.getLsbD 7 then .ops []
  else if c < Config.glyphFirst ∨ Config.glyphLast < c then .fault .glyphOutOfRange
  else .ops (dataFrame (glyph c))

/-- `PUT_CHAR c` (R173). -/
def execPutChar (c : Byte) (s : State) : Host.Outcome State Fault Refusal :=
  .next (acceptRequest (expandPutChar c s) s)

/-- `TEST id`: refused for every pattern in every state of the engine (R178). The operand has no use. -/
def execTest (_id : Byte) (s : State) : Host.Outcome State Fault Refusal := .next (acceptRequest .refuse s)

end Sys2Proof.Machine
end

