-- ==== Sys2Proof/Machine/Panel.lean ====
section
/-! DEFINITION. The reference panel's operations (spec/20_memory.md R72-R76): the parser, the data write, and what each
controller command does when it completes (spec/42_controller_commands.md R202-R218). -/

namespace Sys2Proof.Machine

/-- A Command byte at the parser (R72): the panel after it, and the bytes of the command it completes, if it does. -/
def Panel.collect (p : Params) (pn : Panel) (v : Byte) : Panel × Option (List Byte) :=
  match pn.parse with
  | .idle => if cmdLen p v ≤ 1 then (pn, some [v]) else ({ pn with parse := .params v [] }, none)
  | .params op got =>
    if cmdLen p op ≤ got.length + 2 then ({ pn with parse := .idle }, some (op :: got ++ [v]))
    else ({ pn with parse := .params op (got ++ [v]) }, none)

/-- The column after a data write: it wraps from the window's end to its start (R75). -/
def Panel.nextCol (pn : Panel) : BitVec 7 := if pn.winEnd ≤ pn.col then pn.winStart else pn.col + 1

/-- A Data byte: written at the cursor, and the column moves on (R75). -/
def Panel.dataWrite (pn : Panel) (v : Byte) : Panel :=
  { pn with ram := pn.ram.write (ramAddr pn.page pn.col) v, col := pn.nextCol }

/-- The page-select effect (R73). -/
def Panel.setPage (pn : Panel) (p : BitVec 3) : Panel := { pn with page := p }

/-- The column-range effect: the window and the column, each parameter cut to 7 bits (R74). -/
def Panel.setColumnRange (pn : Panel) (a b : Byte) : Panel :=
  { pn with winStart := a.setWidth 7, winEnd := b.setWidth 7, col := a.setWidth 7 }

/-- A completed command with no effect on the cursor, the window or the RAM (R76): the panel stays as it is. -/
def noPanelEffect (s : State) : Host.Outcome State Fault Refusal := .next s

/-- `DISPLAY_OFF` (R202). -/
def execDisplayOff (s : State) : Host.Outcome State Fault Refusal := noPanelEffect s

/-- `SET_CLOCK_DIV` (R203). -/
def execSetClockDiv (_div : Byte) (s : State) : Host.Outcome State Fault Refusal := noPanelEffect s

/-- `SET_MULTIPLEX` (R204). -/
def execSetMultiplex (_ratio : Byte) (s : State) : Host.Outcome State Fault Refusal := noPanelEffect s

/-- `SET_DISPLAY_OFFSET` (R205). -/
def execSetDisplayOffset (_offset : Byte) (s : State) : Host.Outcome State Fault Refusal := noPanelEffect s

/-- `SET_START_LINE` (R206). -/
def execSetStartLine (_line : BitVec 6) (s : State) : Host.Outcome State Fault Refusal := noPanelEffect s

/-- `CHARGE_PUMP` (R207). -/
def execChargePump (_enable : Byte) (s : State) : Host.Outcome State Fault Refusal := noPanelEffect s

/-- `SEGMENT_REMAP` (R208). -/
def execSegmentRemap (s : State) : Host.Outcome State Fault Refusal := noPanelEffect s

/-- `COM_SCAN_DIR` (R209). -/
def execComScanDir (s : State) : Host.Outcome State Fault Refusal := noPanelEffect s

/-- `SET_COM_PINS` (R210). -/
def execSetComPins (_config : Byte) (s : State) : Host.Outcome State Fault Refusal := noPanelEffect s

/-- `SET_CONTRAST` (R211). -/
def execSetContrast (_contrast : Byte) (s : State) : Host.Outcome State Fault Refusal := noPanelEffect s

/-- `SET_PRECHARGE` (R212). -/
def execSetPrecharge (_period : Byte) (s : State) : Host.Outcome State Fault Refusal := noPanelEffect s

/-- `SET_VCOMH` (R213). -/
def execSetVcomh (_level : Byte) (s : State) : Host.Outcome State Fault Refusal := noPanelEffect s

/-- `ENTIRE_DISPLAY_RESUME` (R214). -/
def execEntireDisplayResume (s : State) : Host.Outcome State Fault Refusal := noPanelEffect s

/-- `SET_ADDR_MODE` (R215). -/
def execSetAddrMode (_mode : List Byte) (s : State) : Host.Outcome State Fault Refusal := noPanelEffect s

/-- `DISPLAY_ON` (R216). -/
def execDisplayOn (_extra : List Byte) (s : State) : Host.Outcome State Fault Refusal := noPanelEffect s

/-- `SET_PAGE p` (R217, R73). -/
def execSetPage (p : BitVec 3) (s : State) : Host.Outcome State Fault Refusal :=
  .next { s with panel := s.panel.setPage p }

/-- `SET_COLUMN_RANGE s, e` (R218, R74). -/
def execSetColumnRange (first last : Byte) (s : State) : Host.Outcome State Fault Refusal :=
  .next { s with panel := s.panel.setColumnRange first last }

end Sys2Proof.Machine
end

