-- ==== Sys2Proof/Machine/Transport.lean ====
section
/-! DEFINITION. The transport: the micro-ops of spec/40_transport.md (R126-R137, and `u_STATE` of spec/41_sequencer.md
R163), the SEQ step (R121), and the acceptance of the five transport requests (R120, R130, R133-R137). -/

namespace Sys2Proof.Machine

/-! ### Micro-ops -/

/-- `u_SWRST` (R126). -/
def microSwrst (s : State) : MicroResult :=
  .done { s with pctrl := { s.pctrl with swrst := true }, swrstBusy := true }

/-- `u_WAIT_SWRST` (R127). -/
def microWaitSwrst (s : State) : MicroResult := if s.swrstBusy then .hold else .done s

/-- `u_PROGRAM` (R128). -/
def microProgram (s : State) : MicroResult :=
  .done { s with
    pctrl := { s.pctrl with
      master := true, cpol := false, cpha := false, dord := dordBit s.params.dord, dipo := s.params.dipo,
      rxen := true, enable := true }
    pbaud := programmedBaud s.params
    sck := .low }

/-- `u_SET_DC(m)` (R133). -/
def microSetDc (m : Mode) (s : State) : MicroResult :=
  if !s.pctrl.enable then .raise .notConfigured
  else if !s.csN then .raise .modeChangeInFrame
  else .done { s with dc := some m }

/-- `u_SELECT(1)` (R134). -/
def microOpenFrame (s : State) : MicroResult :=
  if !s.pctrl.enable then .raise .notConfigured
  else if !s.csN then .raise .nestedFrame
  else match s.dc with
    | none => .raise .modeUnset
    | some m => .done (({ s with csN := false } : State).emit (.frameOpen m))

/-- `u_SELECT(0)` (R135). -/
def microCloseFrame (s : State) : MicroResult :=
  if !s.pctrl.enable then .raise .notConfigured
  else if s.csN then .raise .unmatchedClose
  else if s.txbuf.isSome || s.shift.isSome then .raise .truncatedFrame
  else .done (({ s with csN := true } : State).emit .frameClose)

/-- `u_SEND(v)` (R136): the checks come before the hold. -/
def microSend (v : Byte) (s : State) : MicroResult :=
  if !s.pctrl.enable then .raise .notConfigured
  else if s.csN then .raise .byteOutsideFrame
  else if !s.dre then .hold
  else .done { s with txbuf := some v, dre := false, txc := false }

/-- `u_WAIT_IDLE` (R137): TXC is read, not cleared. -/
def microWaitIdle (s : State) : MicroResult :=
  if !s.pctrl.enable then .raise .notConfigured
  else if !s.txc then .hold
  else .done s

/-- `u_STATE(t)` (R163). -/
def microState (t : SeqState) (s : State) : MicroResult := .done { s with seqState := t }

/-- A micro-op, tried in a state. -/
def microStep : MicroOp → State → MicroResult
  | .swrst, s => microSwrst s
  | .waitSwrst, s => microWaitSwrst s
  | .program, s => microProgram s
  | .setDc m, s => microSetDc m s
  | .select true, s => microOpenFrame s
  | .select false, s => microCloseFrame s
  | .send v, s => microSend v s
  | .waitIdle, s => microWaitIdle s
  | .state t, s => microState t s

/-- Takes a completed micro-op off the queue; BUSY falls with the last one (R121). -/
def State.retire (s : State) (rest : List MicroOp) : State :=
  { s with q := rest, busy := if rest = [] then false else s.busy }

/-- SEQ's turn (R121): the head micro-op, where the queue is not empty and the block is not quiescent. A holding micro-op
stays and nothing changes. -/
def seqTurn (s : State) : State :=
  match s.q with
  | [] => s
  | u :: rest =>
    if s.quiescent then s
    else match microStep u s with
      | .done s' => s'.retire rest
      | .hold => s
      | .raise c => s.raise c

/-! ### Acceptance of the transport requests -/

/-- `Expand(CONFIGURE)` (R130). -/
def expandConfigure (s : State) : Expansion :=
  if s.seqState ≠ .uninit ∨ s.pctrl.enable = true then .fault .reconfigure else .ops configureOps

/-- `CONFIGURE` (R130). -/
def execConfigure (s : State) : Host.Outcome State Fault Refusal := .next (acceptRequest (expandConfigure s) s)

/-- `SELECT a` (R134, R135). -/
def execSelect (a : Bool) (s : State) : Host.Outcome State Fault Refusal :=
  .next (acceptRequest (.ops [.select a]) s)

/-- `SET_MODE m` (R133). -/
def execSetMode (m : Mode) (s : State) : Host.Outcome State Fault Refusal :=
  .next (acceptRequest (.ops [.setDc m]) s)

/-- `SEND_BYTE v` (R136). -/
def execSendByte (v : Byte) (s : State) : Host.Outcome State Fault Refusal :=
  .next (acceptRequest (.ops [.send v]) s)

/-- `WAIT_IDLE` (R137). -/
def execWaitIdle (s : State) : Host.Outcome State Fault Refusal := .next (acceptRequest (.ops [.waitIdle]) s)

end Sys2Proof.Machine
end

