-- ==== Sys2Proof/Machine/Dispatch.lean ====
section
/-! DEFINITION. The meaning of each instruction, one arm a constructor. -/

namespace Sys2Proof.Machine

def exec (i : Instr) (s : State) : Host.Outcome State Fault Refusal :=
  match i with
  -- host requests (spec/30_encoding.md R91)
  | .configure => Sys2Proof.Machine.execConfigure s
  | .select a => Sys2Proof.Machine.execSelect a s
  | .setMode m => Sys2Proof.Machine.execSetMode m s
  | .sendByte v => Sys2Proof.Machine.execSendByte v s
  | .waitIdle => Sys2Proof.Machine.execWaitIdle s
  | .init => Sys2Proof.Machine.execInit s
  | .setAddress x p => Sys2Proof.Machine.execSetAddress x p s
  | .clear mask => Sys2Proof.Machine.execClear mask s
  | .putChar c => Sys2Proof.Machine.execPutChar c s
  | .test id => Sys2Proof.Machine.execTest id s
  -- controller commands (spec/42_controller_commands.md R200)
  | .displayOff => Sys2Proof.Machine.execDisplayOff s
  | .setClockDiv div => Sys2Proof.Machine.execSetClockDiv div s
  | .setMultiplex ratio => Sys2Proof.Machine.execSetMultiplex ratio s
  | .setDisplayOffset offset => Sys2Proof.Machine.execSetDisplayOffset offset s
  | .setStartLine line => Sys2Proof.Machine.execSetStartLine line s
  | .chargePump enable => Sys2Proof.Machine.execChargePump enable s
  | .segmentRemap => Sys2Proof.Machine.execSegmentRemap s
  | .comScanDir => Sys2Proof.Machine.execComScanDir s
  | .setComPins config => Sys2Proof.Machine.execSetComPins config s
  | .setContrast contrast => Sys2Proof.Machine.execSetContrast contrast s
  | .setPrecharge period => Sys2Proof.Machine.execSetPrecharge period s
  | .setVcomh level => Sys2Proof.Machine.execSetVcomh level s
  | .entireDisplayResume => Sys2Proof.Machine.execEntireDisplayResume s
  | .setAddrMode mode => Sys2Proof.Machine.execSetAddrMode mode s
  | .displayOn extra => Sys2Proof.Machine.execDisplayOn extra s
  | .setPage p => Sys2Proof.Machine.execSetPage p s
  | .setColumnRange first last => Sys2Proof.Machine.execSetColumnRange first last s

end Sys2Proof.Machine
end

