-- ==== Sys2Proof/Machine/Flags.lean ====
section
/-! DEFINITION. The host-visible words computed from the state: STATUS (spec/10_state.md R27) and FAULTS (R28). -/

namespace Sys2Proof.Machine

/-- The encoding of the engine's state in STATUS (R22). -/
def SeqState.code : SeqState → BitVec 2
  | .uninit => 0
  | .poweredOff => 1
  | .initializing => 2
  | .ready => 3

/-- A flag at a bit of a 32-bit word. -/
def flagAt (b : Bool) (n : Nat) : Word := (BitVec.ofBool b).setWidth 32 <<< n

/-- STATUS[1]: a fault or a refusal is recorded (R27). -/
def State.faulted (s : State) : Bool := decide (s.fault ≠ 0) || s.refused

/-- STATUS[5]: the mode line is DAT; 0 for CMD and while unwritten (R27). -/
def State.dcBit (s : State) : Bool := s.dc == some .dat

/-- The STATUS register (R27). -/
def statusWord (s : State) : Word :=
  flagAt s.busy 0 ||| flagAt s.faulted 1 ||| (s.seqState.code.setWidth 32 <<< 2) ||| flagAt (!s.csN) 4 |||
    flagAt s.dcBit 5 ||| flagAt s.dc.isSome 6 ||| flagAt s.dre 7 ||| flagAt s.txc 8 ||| flagAt s.swrstBusy 9 |||
    flagAt s.pctrl.enable 10

/-- The FAULTS register (R28). -/
def faultsWord (s : State) : Word := s.fault.setWidth 32

end Sys2Proof.Machine
end

