-- ==== Sys2Proof/Machine/Shift.lean ====
section
/-! DEFINITION. The SHIFT agent: SH_RESET, SH_LOAD, SH_BIT and SH_DONE (spec/40_transport.md R139-R143), and the pin
waveform of a bit (R144). A step that is not enabled changes nothing. -/

namespace Sys2Proof.Machine

/-- `SH_RESET` (R140), enabled iff a software reset is in progress. CS_N, DC, MOSI and TRACE are left (R262). -/
def shReset (s : State) : State :=
  if s.swrstBusy then
    { s with
      pctrl := .zero, pbaud := 0, dre := true, txc := false, rxc := false, txbuf := none, shift := none, rxbuf := none,
      sck := .z, swrstBusy := false }
  else s

/-- `SH_LOAD` (R141). -/
def shLoad (s : State) : State :=
  match s.txbuf, s.shift with
  | some v, none =>
    if s.pctrl.enable && !s.swrstBusy then { s with shift := some ⟨v, 8⟩, txbuf := none, dre := true } else s
  | _, _ => s

/-- The index of the bit a shift presents with `k` bits left: `k - 1` for MSB first, `8 - k` for LSB first (R142). -/
def bitIndex (dord : Bool) (k : Nat) : Nat := if dord then 8 - k else k - 1

/-- The shift register with one bit fewer to send. -/
def ShiftReg.pop (r : ShiftReg) : ShiftReg := { r with left := ⟨r.left.val - 1, by omega⟩ }

/-- `SH_BIT` (R142): a bit is presented on MOSI and SCK pulses once; the data-in bit of the same edge is discarded. -/
def shBit (s : State) : State :=
  match s.shift with
  | some r =>
    if r.left = 0 then s
    else { s with
      mosi := .bit (r.value.getLsbD (bitIndex s.pctrl.dord r.left.val)), sck := .low, shift := some r.pop }
  | none => s

/-- What `SH_DONE` does to the block when a byte is complete (R143): the event, the received draw, the shift register, and
TXC where no byte waits. No bit is presented any more (R144). -/
def shDone (m : Mode) (v : Byte) (s : State) : State :=
  { s.emit (.byte m v) with
    rxbuf := if s.pctrl.rxen then some (Config.rxDraw s.tick) else s.rxbuf
    rxc := s.rxc || s.pctrl.rxen
    shift := none
    mosi := .undriven
    txc := s.txc || s.txbuf.isNone }

/-- The pins' levels in the course of one bit: the data set up while the clock is low, the rising edge at which the
receiver samples, and the falling edge (R144). PRESUMED (G10). Log entry 10. -/
def bitWave (b : Bool) : List (SckLevel × MosiPin) := [(.low, .bit b), (.high, .bit b), (.low, .bit b)]

/-- The level on MOSI: the bit presented, or a draw (R39, R144). Log entry 9. -/
def State.mosiLevel (s : State) : Bool :=
  match s.mosi with
  | .bit b => b
  | .undriven => Config.mosiDraw s.tick

/-- The pins' levels in the course of a byte sent in a bit order, bit after bit (R144). -/
def byteWave (dord : Bool) (v : Byte) : List (SckLevel × MosiPin) :=
  ((List.range 8).map fun i => v.getLsbD (bitIndex dord (8 - i))).flatMap bitWave

/-- The levels a receiver samples in a waveform: MOSI at each rising edge of SCK (R122, R144). -/
def risingSamples : List (SckLevel × MosiPin) → List MosiPin
  | (.low, _) :: (.high, d) :: r => d :: risingSamples r
  | _ :: r => risingSamples r
  | [] => []

end Sys2Proof.Machine
end

