-- ==== Sys2Proof/Machine/Fetch.lean ====
section
/-! DEFINITION. Where instructions come from: a host access to the register window (spec/20_memory.md R61, R62) brings a
request, a byte completing on the bus (spec/40_transport.md R143) may complete a controller command (R72). -/

namespace Sys2Proof.Machine

/-! ### The host's turn -/

/-- A legal access: four bytes at 0x00, 0x04 or 0x08, and no write but to REQ (R61, R62). -/
def HostAccess.legal (a : HostAccess) : Bool :=
  a.width == 4 && a.off.extractLsb' 0 2 == 0 && a.off != 0xC &&
    (a.op == .read || (a.off != 0x4 && a.off != 0x8))

/-- The access of `n` bytes at an address of the host bus, where it falls in the block's window (R29, R61). An access
elsewhere does not reach the block. Log entry 14. -/
def HostAccess.ofAddress (p : Params) (addr n : Nat) (op : HostOp) : Option HostAccess :=
  if p.hostBase ≤ addr ∧ addr < p.hostBase + 16 then some ⟨BitVec.ofNat 4 (addr - p.hostBase), n, op⟩ else none

/-- A legal write of a word to REQ (R160). -/
def writeReq (w : Word) (s : State) : Host.Outcome State Fault Refusal :=
  match decodeReq w with
  | .ok i => exec i s
  | .error _ => .next (rejectWord s)

/-- What a legal read returns: REQ reads 0 (R26, R61). -/
def readWord (off : BitVec 4) (s : State) : Word :=
  if off = 0x4 then statusWord s else if off = 0x8 then faultsWord s else 0

/-- A host access (R61, R62): an illegal one raises ILLEGAL_ACCESS, and an illegal read returns a draw. -/
def hostAccess (a : HostAccess) (s : State) : Host.Outcome State Fault Refusal :=
  if a.legal then
    match a.op with
    | .write w => writeReq w s
    | .read => .next (s.reply (readWord a.off s))
  else
    match a.op with
    | .write _ => .next (s.raise .illegalAccess)
    | .read => .next ((s.raise .illegalAccess).reply (Config.readDraw s.tick))

/-- The host's turn: its next access, if it has one. -/
def hostTurn (s : State) : Host.Outcome State Fault Refusal :=
  match s.hostIn with
  | [] => .next s
  | a :: rest => hostAccess a { s with hostIn := rest }

/-! ### A byte on the bus -/

/-- A byte event at the panel (R70): a Data byte is written; a Command byte goes to the parser, and the command it
completes is executed. Bytes that are no command of the block have no effect (R72, R76). -/
def panelReceive (m : Mode) (v : Byte) (s : State) : Host.Outcome State Fault Refusal :=
  match m with
  | .dat => .next { s with panel := s.panel.dataWrite v }
  | .cmd =>
    match s.panel.collect s.params v with
    | (pn, none) => .next { s with panel := pn }
    | (pn, some bs) =>
      match decode s.params (.ctl bs) with
      | .ok i => exec i { s with panel := pn }
      | .error _ => .next { s with panel := pn }

/-- `SH_DONE`'s turn (R143), enabled iff a byte has no bits left: the block's part, then the panel's. -/
def shDoneTurn (s : State) : Host.Outcome State Fault Refusal :=
  match s.shift with
  | none => .next s
  | some r =>
    if r.left = 0 then
      match s.dc with
      | some m => panelReceive m r.value (shDone m r.value s)
      | none => .fault .byteWithModeUnwritten
    else .next s

/-! ### A turn -/

/-- The turn of an agent; one with no enabled step changes nothing (R11, R12). Log entry 2. -/
def runTurn : Turn → State → Host.Outcome State Fault Refusal
  | .host, s => hostTurn s
  | .seq, s => .next (seqTurn s)
  | .shReset, s => .next (shReset s)
  | .shLoad, s => .next (shLoad s)
  | .shBit, s => .next (shBit s)
  | .shDone, s => shDoneTurn s

/-! ### Placing an instruction where the next step takes it -/

/-- A request word as the host's next access, and the host's turn next. -/
def placeRequest (w : Word) (s : State) : State :=
  { s with hostIn := ⟨0, 4, .write w⟩ :: s.hostIn, turns := .host :: s.turns }

/-- A controller command whose last byte completes in the next step: its earlier bytes are in the parser, the last one is
in the shift register of an open Command-mode frame with no bits left, and SH_DONE's turn is next. -/
def placeCommand (bs : List Byte) (s : State) : State :=
  { s with
    csN := false
    dc := some .cmd
    shift := some ⟨bs.getLastD 0, 0⟩
    panel := { s.panel with
      parse := match bs with
        | op :: v :: r => .params op ((v :: r).dropLast)
        | _ => .idle }
    turns := .shDone :: s.turns }

/-- The bytes of the controller command whose bits are `w`: as many as its opcode asks for. -/
def tableBytes (p : Params) (w : Nat) : List Byte :=
  [BitVec.ofNat 8 w, BitVec.ofNat 8 (w / 256), BitVec.ofNat 8 (w / 65536)].take (cmdLen p (BitVec.ofNat 8 w))

end Sys2Proof.Machine
end

