-- ==== Sys2Proof/Machine/Step.lean ====
section
/-! DEFINITION. One step: the next turn of the schedule is taken off and run (spec/00_scope.md R11). -/

namespace Sys2Proof.Machine

/-- One step of the machine. -/
def step (s : State) : Host.Outcome State Fault Refusal := runTurn s.nextTurn s.beginStep

/-- The state with an opcode-table row's instruction placed where the next step takes it: a 32-bit row as the host's next
request, a shorter one as the controller command that completes next. Log entry 17. -/
def State.withFetchWord (s : State) (nbits w : Nat) : State :=
  if nbits = 32 then placeRequest (BitVec.ofNat 32 w) s
  else placeCommand (tableBytes s.params (w % 2 ^ nbits)) s

end Sys2Proof.Machine
end

