-- ==== Sys2Proof/Safety.lean ====
section
/-! DEFINITION. The terms claims are stated in: well-formed traces (spec/10_state.md R41), the reference panel as a fold over
the trace (spec/20_memory.md R70), which turns are enabled and how a run ends (spec/70_reset_and_hazards.md R276), fair runs
(spec/40_transport.md R145), what is still to come on the bus, and the invariant of the block. -/

namespace Sys2Proof.Machine

/-! ### Words for statements about one step -/

/-- The block takes a request: no fault, no refusal, and no request running (R160). -/
def Accepting (s : State) : Prop := s.fault = 0 ∧ s.refused = false ∧ s.busy = false

/-- A request of the host, as opposed to a controller command (R90). -/
def isRequest : Instr → Bool
  | .configure | .select _ | .setMode _ | .sendByte _ | .waitIdle | .init | .setAddress _ _ | .clear _ | .putChar _
  | .test _ => true
  | .displayOff | .setClockDiv _ | .setMultiplex _ | .setDisplayOffset _ | .setStartLine _ | .chargePump _
  | .segmentRemap | .comScanDir | .setComPins _ | .setContrast _ | .setPrecharge _ | .setVcomh _
  | .entireDisplayResume | .setAddrMode _ | .displayOn _ | .setPage _ | .setColumnRange _ _ => false

/-- SEQ's turn is next and its micro-op is `u`, with `rest` behind it, in a block that is not quiescent (R121). -/
def SeqAt (s : State) (u : MicroOp) (rest : List MicroOp) : Prop :=
  s.nextTurn = .seq ∧ s.q = u :: rest ∧ s.fault = 0 ∧ s.refused = false

/-- The state with one step counted and its turn taken off, and nothing else changed. -/
def afterStep (s : State) : State := { s with turns := s.turns.tail, tick := s.tick + 1 }

/-- After a step that completes a micro-op with no other effect (R121). -/
def afterMicro (s : State) (rest : List MicroOp) : State :=
  { afterStep s with q := rest, busy := if rest = [] then false else s.busy }

/-- After a step that raises the fault cause of bit `n` (R232). -/
def afterFault (s : State) (n : Nat) : State :=
  { afterStep s with fault := s.fault ||| BitVec.ofNat 16 (2 ^ n), q := [], busy := false }

/-- The host's turn is next and its access is `a`, with `rest` to follow (R61). -/
def HostAt (s : State) (a : HostAccess) (rest : List HostAccess) : Prop := s.nextTurn = .host ∧ s.hostIn = a :: rest

/-- The state with one step counted and the host's access taken off, and nothing else changed. -/
def afterAccess (s : State) (rest : List HostAccess) : State := { afterStep s with hostIn := rest }

/-- The bits of a request word that must be zero for an OP (R93). -/
def mustBeZero (op : BitVec 4) : Word :=
  0xFF0000F0 ||| (if op ∈ [0x1, 0x2, 0x3, 0x4, 0x5, 0x8, 0xA, 0xB, 0xC] then 0x00FF0000 else 0) |||
    (if op ∈ [0x1, 0x5, 0x8] then 0x0000FF00 else 0) ||| (if op ∈ [0x2, 0x3] then 0x0000FE00 else 0)

/-- The state SH_DONE leaves when a Command byte completes, with what the panel's parser holds then (R143, R72). -/
def afterCommandByte (s : State) (v : Byte) (parse : Parse) : State :=
  { afterStep s with
    trace := s.trace ++ [.byte .cmd v]
    rxbuf := if s.pctrl.rxen then some (Config.rxDraw (s.tick + 1)) else s.rxbuf
    rxc := s.rxc || s.pctrl.rxen
    shift := none
    mosi := .undriven
    txc := s.txc || s.txbuf.isNone
    panel := { s.panel with parse := parse } }

/-- The bytes of a command the parser holds (R72). -/
def Parse.bytes : Parse → List Byte
  | .idle => []
  | .params op got => op :: got

/-- The panel's column after `n` Data bytes: it moves on within the window (R75). -/
def Panel.columnAfter (pn : Panel) : Nat → BitVec 7
  | 0 => pn.col
  | n + 1 => if pn.columnAfter n ≥ pn.winEnd then pn.winStart else pn.columnAfter n + 1

/-! ### Traces -/

/-- A well-formed trace: a concatenation of closed frames, one mode throughout each (R41). -/
inductive FrameTrace : List Event → Prop where
  | nil : FrameTrace []
  | frame (m : Mode) (bs : List Byte) (rest : List Event) :
      FrameTrace rest → FrameTrace (.frameOpen m :: (bs.map (Event.byte m) ++ .frameClose :: rest))

/-- Reads one event: `some none` between frames, `some (some m)` inside a frame of mode `m`, `none` once malformed. -/
def scanEvent : Option (Option Mode) → Event → Option (Option Mode)
  | some none, .frameOpen m => some (some m)
  | some (some m), .byte n _ => if m = n then some (some m) else none
  | some (some _), .frameClose => some none
  | _, _ => none

/-- Where a trace ends: between frames, inside a frame of a mode, or malformed. -/
def scanTrace (t : List Event) : Option (Option Mode) := t.foldl scanEvent (some none)

/-- The events of one closed frame. -/
def frameEvents (m : Mode) (bs : List Byte) : List Event :=
  .frameOpen m :: (bs.map (Event.byte m) ++ [.frameClose])

/-! ### The reference panel as a fold (R70) -/

/-- What a completed command does to the panel (R73, R74, R76). -/
def panelCommand (bs : List Byte) (pn : Panel) : Panel :=
  match bs with
  | [op] => if op.toNat / 8 = 0xB0 / 8 then { pn with page := BitVec.ofNat 3 (op.toNat - 0xB0) } else pn
  | [op, a, b] =>
    if op = 0x21 then
      { pn with winStart := BitVec.ofNat 7 a.toNat, winEnd := BitVec.ofNat 7 b.toNat, col := BitVec.ofNat 7 a.toNat }
    else pn
  | _ => pn

/-- One event at the panel (R70, R72, R75). -/
def panelStep (p : Params) (pn : Panel) : Event → Panel
  | .frameOpen _ => pn
  | .frameClose => pn
  | .byte .dat v =>
    { pn with
      ram := pn.ram.write (128 * pn.page.toNat + pn.col.toNat) v
      col := if pn.col ≥ pn.winEnd then pn.winStart else pn.col + 1 }
  | .byte .cmd v =>
    match pn.parse with
    | .idle => if cmdLen p v = 1 then panelCommand [v] pn else { pn with parse := .params v [] }
    | .params op got =>
      if (got ++ [v]).length = cmdLen p op - 1 then panelCommand (op :: (got ++ [v])) { pn with parse := .idle }
      else { pn with parse := .params op (got ++ [v]) }

/-- The panel a trace leaves, from a panel before it (R70). -/
def panelFold (p : Params) (pn : Panel) (t : List Event) : Panel := t.foldl (panelStep p) pn

/-- `Panel(TRACE)`: the fold from the power-up state (R70, R71). -/
def panelOf (p : Params) (t : List Event) : Panel := panelFold p .powerUp t

/-! ### Enabled turns and ends of runs -/

/-- The head micro-op is one the block may run, and it holds (R121). -/
def seqHolding (s : State) : Bool :=
  match s.q with
  | [] => false
  | u :: _ =>
    !s.quiescent && match microStep u s with
      | .hold => true
      | _ => false

/-- SEQ has an enabled step (R121). -/
def seqEnabled (s : State) : Bool := decide (s.q ≠ []) && !s.quiescent && !seqHolding s

/-- A turn has an enabled step (R121, R139-R143). -/
def turnEnabled : Turn → State → Bool
  | .host, s => decide (s.hostIn ≠ [])
  | .seq, s => seqEnabled s
  | .shReset, s => s.swrstBusy
  | .shLoad, s => s.pctrl.enable && !s.swrstBusy && s.shift.isNone && s.txbuf.isSome
  | .shBit, s =>
    match s.shift with
    | some r => decide (r.left ≠ 0)
    | none => false
  | .shDone, s =>
    match s.shift with
    | some r => decide (r.left = 0)
    | none => false

/-- The turns of SHIFT (R139). -/
def shiftTurns : List Turn := [.shReset, .shLoad, .shBit, .shDone]

/-- An access that writes a request: a four-byte write of any word to REQ (R26, R160). -/
def HostAccess.writesRequest (a : HostAccess) : Bool := decide (a.off = 0) && decide (a.width = 4) && decide (a.op ≠ .read)

/-- The run has ended: the host writes no further request, though it may still read, and no step of SEQ or SHIFT is
enabled (R276). -/
def Ended (s : State) : Prop :=
  (∀ a ∈ s.hostIn, a.writesRequest = false) ∧ turnEnabled .seq s = false ∧ ∀ t ∈ shiftTurns, turnEnabled t s = false

/-- A successful end (R276). -/
def Successful (s : State) : Prop := Ended s ∧ s.fault = 0 ∧ s.refused = false ∧ s.busy = false

/-- A faulted end (R276). -/
def FaultedEnd (s : State) : Prop := Ended s ∧ s.fault ≠ 0

/-- A refused end (R276). -/
def RefusedEnd (s : State) : Prop := Ended s ∧ s.refused = true

/-- A hung end: BUSY with SEQ holding (R276, R146). -/
def Hung (s : State) : Prop := Ended s ∧ s.busy = true ∧ seqHolding s = true

/-- An infinite run of the machine. -/
def IsRun (r : Nat → State) : Prop := ∀ n, step (r n) = .next (r (n + 1))

/-- The run goes on while HOST or SEQ has an enabled step: a turn that has one comes. A turn with no enabled step is no step
of the spec (R12), so a run of the spec has no endless row of them. Log entry 32. -/
def Proceeds (r : Nat → State) : Prop :=
  ∀ n, turnEnabled .host (r n) = true ∨ turnEnabled .seq (r n) = true →
    ∃ m, n ≤ m ∧ turnEnabled (r m).nextTurn (r m) = true

/-- Every continuously enabled step of SHIFT is eventually taken (R145). -/
def WeaklyFair (r : Nat → State) : Prop :=
  ∀ t ∈ shiftTurns, ∀ n, (∀ m, n ≤ m → turnEnabled t (r m) = true) → ∃ m, n ≤ m ∧ (r m).nextTurn = t

/-- What the parameter `PERIPH_LIVE` says of a run: fairness of SHIFT where it is true, nothing where it is false
(R145). Log entry 21. -/
def RespondsIfLive (r : Nat → State) : Prop := (r 0).params.periphLive = true → WeaklyFair r

/-! ### What is still to come on the bus -/

/-- The bytes in flight, first out first: the shift register's, then the transmit register's (R131). -/
def inFlight (s : State) : List Byte := (s.shift.map ShiftReg.value).toList ++ s.txbuf.toList

/-- The events a queue adds to the trace when it runs without a fault, from a level of the mode line. -/
def queueEvents : Option Mode → List MicroOp → List Event
  | _, [] => []
  | _, .setDc m :: r => queueEvents (some m) r
  | some m, .select true :: r => .frameOpen m :: queueEvents (some m) r
  | some m, .send v :: r => .byte m v :: queueEvents (some m) r
  | d, .select false :: r => .frameClose :: queueEvents d r
  | d, _ :: r => queueEvents d r

/-- The events the bytes in flight will add. -/
def inFlightEvents (s : State) : List Event :=
  match s.dc with
  | some m => (inFlight s).map (Event.byte m)
  | none => []

/-- The trace to come: what is on it, then the bytes in flight, then what the queue adds. -/
def projectedTrace (s : State) : List Event := s.trace ++ inFlightEvents s ++ queueEvents s.dc s.q

/-! ### The invariant of the block -/

/-- The state after one, where the engine moves on (R22). -/
def SeqState.succ? : SeqState → Option SeqState
  | .uninit => some .poweredOff
  | .poweredOff => some .initializing
  | .initializing => some .ready
  | .ready => none

/-- Every `u_STATE` of a queue makes one of the three transitions, in turn (R22). -/
def stateChain : SeqState → List MicroOp → Bool
  | _, [] => true
  | a, .state b :: r => decide (a.succ? = some b) && stateChain b r
  | a, .swrst :: r => stateChain a r
  | a, .waitSwrst :: r => stateChain a r
  | a, .program :: r => stateChain a r
  | a, .setDc _ :: r => stateChain a r
  | a, .select _ :: r => stateChain a r
  | a, .send _ :: r => stateChain a r
  | a, .waitIdle :: r => stateChain a r

/-- No micro-op of configure stands in a queue. -/
def configFree (l : List MicroOp) : Prop := ∀ u ∈ l, u ≠ .swrst ∧ u ≠ .waitSwrst ∧ u ≠ .program

/-- Configure is at one of its first three micro-ops, in an unconfigured block, or none of them is queued (R130). -/
def ConfigShape (s : State) : Prop :=
  configFree s.q ∨
    (s.seqState = .uninit ∧ s.pctrl.enable = false ∧ ∃ r, configFree r ∧
      ((s.q = configureOps ++ r ∧ s.swrstBusy = false) ∨ s.q = configureOps.drop 1 ++ r ∨
        (s.q = configureOps.drop 2 ++ r ∧ s.swrstBusy = false)))

/-- The control fields `u_PROGRAM` leaves (R128). -/
def PCtrl.programmed (p : Params) : PCtrl where
  swrst := false
  enable := true
  master := true
  cpol := false
  cpha := false
  dord := dordBit p.dord
  dipo := p.dipo
  rxen := true

/-- The invariant of the block's record S, in every state a run reaches. -/
structure Inv (s : State) : Prop where
  /-- BUSY is 1 iff the queue is not empty (R24). -/
  busy_iff : s.busy = true ↔ s.q ≠ []
  /-- DRE is 1 iff the transmit register is empty (R32). -/
  dre_iff : s.dre = true ↔ s.txbuf = none
  /-- TXC implies that nothing is in flight (R33). -/
  txc_idle : s.txc = true → s.txbuf = none ∧ s.shift = none
  /-- A byte in flight stands in an open frame (R136, R135). -/
  flight_framed : s.txbuf ≠ none ∨ s.shift ≠ none → s.csN = false
  /-- An open frame has a mode (R134). -/
  frame_mode : s.csN = false → s.dc ≠ none
  /-- A quiescent block has an empty queue (R232). -/
  quiet : s.quiescent = true → s.q = []
  /-- Bit 15 of FAULT is never set (R28). -/
  fault_bit15 : s.fault.getLsbD 15 = false
  /-- A disabled peripheral has nothing in flight (R132, R140). -/
  disabled_idle : s.pctrl.enable = false → s.txbuf = none ∧ s.shift = none
  /-- SCK is driven, and low between bits, iff the peripheral is enabled (R39). -/
  sck_level : s.sck = if s.pctrl.enable then .low else .z
  /-- An enabled peripheral holds what `u_PROGRAM` wrote; a disabled one zero but for SWRST (R30, R31). -/
  programmed : (s.pctrl = .programmed s.params ∧ s.pbaud = programmedBaud s.params) ∨
    (s.pctrl = { PCtrl.zero with swrst := s.pctrl.swrst } ∧ s.pbaud = 0)
  /-- A software reset in progress finds the peripheral disabled, and SEQ at its wait (R126, R127). -/
  resetting : s.swrstBusy = true → s.pctrl.enable = false ∧ (s.quiescent = true ∨ s.q.head? = some .waitSwrst)
  /-- The SWRST field is set only while the software reset is in progress (R126, R140). -/
  swrst_field : s.pctrl.swrst = true → s.swrstBusy = true
  /-- Where configure stands (R130). -/
  config_shape : ConfigShape s
  /-- The engine's pending transitions (R22). -/
  chain : stateChain s.seqState s.q = true
  /-- Past UNINIT the transport is configured (R22). -/
  configured : s.seqState ≠ .uninit → s.pctrl.enable = true
  /-- A configured block still in UNINIT is about to leave it, or is quiescent (R130). -/
  leaving : s.seqState = .uninit → s.pctrl.enable = true →
    s.quiescent = true ∨ s.q.head? = some (.state .poweredOff)
  /-- `u_STATE(POWERED_OFF)` at the head finds the transport configured (R130). -/
  powering : s.q.head? = some (.state .poweredOff) → s.pctrl.enable = true
  /-- The trace is a concatenation of frames, the last one open iff CS_N is low (R41). -/
  trace_shape : scanTrace s.trace = some (if s.csN then none else s.dc)
  /-- The display RAM keeps its canonical form (R71). -/
  ram_wf : s.panel.ram.wf = true

end Sys2Proof.Machine
end

