-- ==== Sys2Proof/Certificates/Slice0/Obligations.lean ====
section
/-! DEFINITION. The statements for the provers, one a rule or a family of rules of spec/. -/

open Sys2Proof Sys2Proof.Machine

/-! ### Encoding -/

/-- Decoding the encoding of a well-formed instruction gives it back, under every well-formed parameter set
(R91, R92, R97, R98). -/
def Obligations.DecodeOfEncodeIsInstruction : Prop :=
  ∀ (p : Params) (i : Instr), p.wf = true → i.wf p = true → decode p (encode p i) = .ok i

/-- "Decode then encode is the identity on legal words" (R96), and on the bytes of a controller command. -/
def Obligations.EncodeOfDecodeIsWord : Prop :=
  ∀ (p : Params) (e : Encoding) (i : Instr), decode p e = .ok i → encode p i = e

/-- Exactly the words R94 names are illegal; written to a block that takes requests, one raises ILLEGAL_REQUEST and has no
other effect. -/
def Obligations.IllegalWordsFault : Prop :=
  (∀ w : Word, (∃ e, decodeReq w = .error e) ↔
    (w.extractLsb' 0 4 ∈ [0x0#4, 0x6#4, 0x7#4, 0xD#4, 0xE#4, 0xF#4] ∨ w &&& mustBeZero (w.extractLsb' 0 4) ≠ 0)) ∧
  (∀ (w : Word) (e : DecodeError) (s : State), decodeReq w = .error e → Accepting s → s.q = [] →
    writeReq w s = .next { s with fault := 1 })

/-- Request words the spec writes out (R100's examples, V-DEC) decode to the instructions they stand for; so do TEST's with a
five in its operand (R91), a page select and a column range (R98). That 0x81 heads SET_CONTRAST is the presumed default table's (log entry 4;
R201 leaves INIT_TABLE open), and that commands decode by role is log entry 18. -/
def Obligations.SpecWordsDecode : Prop :=
  decodeReq 0x00000001 = .ok .configure ∧ decodeReq 0x00000102 = .ok (.select true) ∧
  decodeReq 0x00000103 = .ok (.setMode .dat) ∧ decodeReq 0x0000AE04 = .ok (.sendByte 0xAE) ∧
  decodeReq 0x00030209 = .ok (.setAddress 2 3) ∧ decodeReq 0x0000FF0A = .ok (.clear 0xFF) ∧
  decodeReq 0x0000480B = .ok (.putChar 0x48) ∧ decodeReq 0x0000050C = .ok (.test 5) ∧
  decode .default (.ctl [0x81, 0xCF]) = .ok (.setContrast 0xCF) ∧ decode .default (.ctl [0xB3]) = .ok (.setPage 3) ∧
  decode .default (.ctl [0x21, 0x10, 0x7F]) = .ok (.setColumnRange 0x10 0x7F)

/-- `CMDLEN`: 1 for 0xB0..0xB7, 3 for 0x21, the length of the parameter command an opcode heads, and 1 for any other byte
(R72). -/
def Obligations.CommandLengths : Prop :=
  ∀ (p : Params) (v : Byte), p.wf = true →
    (0xB0 ≤ v.toNat ∧ v.toNat ≤ 0xB7 → cmdLen p v = 1) ∧ cmdLen p 0x21 = 3 ∧
    (∀ c ∈ p.commands, c.head? = some v → cmdLen p v = c.length) ∧
    (¬(0xB0 ≤ v.toNat ∧ v.toNat ≤ 0xB7) → v ≠ 0x21 → (∀ c ∈ p.commands, c.head? ≠ some v) → cmdLen p v = 1)

/-! ### A step runs the decoded instruction -/

/-- When the host's next access writes a word to REQ, the step is the write of that word, on the state with the access taken
off; for a legal word it is `exec` of the request it decodes to (R61, R160). -/
def Obligations.StepRunsRequest : Prop :=
  ∀ (s : State) (w : Word) (rest : List HostAccess), HostAt s ⟨0, 4, .write w⟩ rest →
    step s = writeReq w (afterAccess s rest) ∧ ∀ i, decodeReq w = .ok i → step s = exec i (afterAccess s rest)

/-- What the step is when a Command byte completes on the bus (R143, R72). With the bytes the parser holds before it: where
they are fewer than the command's length, the parser holds them all; where they are a command, the step is `exec` of it on
the state SH_DONE leaves with the parser idle; where they are none, that state is all; and so it is for an opcode the block
never sends (X6, V-PNL-12). -/
def Obligations.StepRunsCommand : Prop :=
  ∀ (s : State) (r : ShiftReg), s.nextTurn = .shDone → s.shift = some r → r.left = 0 → s.dc = some .cmd →
    let bs := s.panel.parse.bytes ++ [r.value]
    (bs.length < cmdLen s.params (bs.headD 0) →
      step s = .next (afterCommandByte s r.value (.params (bs.headD 0) bs.tail))) ∧
    (∀ i, bs.length = cmdLen s.params (bs.headD 0) → decode s.params (.ctl bs) = .ok i →
      step s = exec i (afterCommandByte s r.value .idle)) ∧
    (∀ e, bs.length = cmdLen s.params (bs.headD 0) → decode s.params (.ctl bs) = .error e →
      step s = .next (afterCommandByte s r.value .idle)) ∧
    (s.panel.parse = .idle → ¬(0xB0 ≤ r.value.toNat ∧ r.value.toNat ≤ 0xB7) → r.value ≠ 0x21 →
      (∀ c ∈ s.params.commands, c.head? ≠ some r.value) → step s = .next (afterCommandByte s r.value .idle))

/-! ### Requests: what acceptance does -/

/-- "Each transport request expands to a fixed list of micro-ops when it is accepted" (R120); CONFIGURE is accepted in
UNINIT with the peripheral disabled, and raises RECONFIGURE otherwise (R130). -/
def Obligations.TransportRequestsExpand : Prop :=
  ∀ s : State, Accepting s →
    (s.seqState = .uninit → s.pctrl.enable = false →
      exec .configure s = .next { s with q := [.swrst, .waitSwrst, .program, .state .poweredOff], busy := true }) ∧
    (s.q = [] → s.seqState ≠ .uninit ∨ s.pctrl.enable = true →
      exec .configure s = .next { s with fault := 0x10 }) ∧
    (∀ m, exec (.setMode m) s = .next { s with q := [.setDc m], busy := true }) ∧
    (∀ a, exec (.select a) s = .next { s with q := [.select a], busy := true }) ∧
    (∀ v, exec (.sendByte v) s = .next { s with q := [.send v], busy := true }) ∧
    exec .waitIdle s = .next { s with q := [.waitIdle], busy := true }

/-- INIT: its expansion from UNINIT and from POWERED_OFF, and REINIT otherwise (R165). -/
def Obligations.InitExpands : Prop :=
  ∀ s : State, Accepting s →
    (s.seqState = .uninit → exec .init s = .next { s with
      q := [.swrst, .waitSwrst, .program, .state .poweredOff] ++ ([.state .initializing] ++
        (s.params.initTable.map (frame .cmd)).flatten ++ clearOps s.params 0xFF ++ frame .cmd s.params.addrModeCmd ++
        frame .cmd s.params.displayOnCmd ++ [.state .ready])
      busy := true }) ∧
    (s.seqState = .poweredOff → exec .init s = .next { s with
      q := [.state .initializing] ++
        (s.params.initTable.map (frame .cmd)).flatten ++ clearOps s.params 0xFF ++ frame .cmd s.params.addrModeCmd ++
        frame .cmd s.params.displayOnCmd ++ [.state .ready]
      busy := true }) ∧
    (s.seqState = .initializing ∨ s.seqState = .ready → s.q = [] → exec .init s = .next { s with fault := 0x20 })

/-- SET_ADDRESS: the state check, then the range check, then three Command frames with `0xB0 + p` and `8 * x` formed
without wrap (R167, R168, R179). -/
def Obligations.SetAddressExpands : Prop :=
  ∀ (s : State) (x p : Byte), Accepting s →
    (s.seqState = .ready → x.toNat ≤ 15 → p.toNat ≤ 7 → ∃ pg col : Byte,
      pg.toNat = 0xB0 + p.toNat ∧ col.toNat = 8 * x.toNat ∧
      exec (.setAddress x p) s = .next { s with
        q := frame .cmd s.params.addrModeCmd ++ frame .cmd [pg] ++ frame .cmd [0x21, col, 0x7F], busy := true }) ∧
    (s.q = [] → s.seqState ≠ .ready → exec (.setAddress x p) s = .next { s with fault := 0x40 }) ∧
    (s.q = [] → s.seqState = .ready → 15 < x.toNat ∨ 7 < p.toNat →
      exec (.setAddress x p) s = .next { s with fault := 0x80 })

/-- CLEAR: one address and one frame of 128 zero bytes for each selected page, in ascending order; NOT_READY outside READY;
nothing at all for an empty mask (R170). -/
def Obligations.ClearExpands : Prop :=
  ∀ (s : State) (mask : Byte), Accepting s →
    (s.seqState = .ready → mask ≠ 0 → ∃ pages : List Nat,
      pages.Pairwise (· < ·) ∧ (∀ k, k ∈ pages ↔ k < 8 ∧ mask.getLsbD k = true) ∧
      exec (.clear mask) s = .next { s with
        q := pages.flatMap fun k => frame .cmd s.params.addrModeCmd ++ frame .cmd [BitVec.ofNat 8 (0xB0 + k)] ++
          frame .cmd [0x21, 0x00, 0x7F] ++ frame .dat (List.replicate 128 0)
        busy := true }) ∧
    (s.seqState = .ready → s.q = [] → exec (.clear 0) s = .next s) ∧
    (s.q = [] → s.seqState ≠ .ready → exec (.clear mask) s = .next { s with fault := 0x40 })

/-- What CLEAR appends, counted: 3k Command frames and k Data frames, k times the address commands' bytes, and 128k Data
bytes, all zero (R171). -/
def Obligations.ClearCounts : Prop :=
  ∀ (p : Params) (mask : Byte) (d : Option Mode),
    let es := queueEvents d (clearOps p mask)
    let k := ((List.range 8).filter fun i => mask.getLsbD i).length
    es.count (.frameOpen .cmd) = 3 * k ∧ es.count (.frameOpen .dat) = k ∧ es.count .frameClose = 4 * k ∧
      (es.filter fun e => match e with | .byte .cmd _ => true | _ => false).length =
        k * (p.addrModeCmd.length + 1 + 3) ∧
      es.count (.byte .dat 0) = 128 * k ∧ ∀ v, .byte .dat v ∈ es → v = 0

/-- PUT_CHAR of a printable code sends its eight glyph bytes in one Data frame; codes 0x00..0x1F and 0x7F raise
GLYPH_OUT_OF_RANGE; outside READY every code raises NOT_READY (R173, R175). Codes 0x80..0xFF in READY: R174, the next
statement. -/
def Obligations.PutCharCases : Prop :=
  ∀ (s : State) (c : Byte), Accepting s →
    (s.seqState = .ready → 0x20 ≤ c.toNat → c.toNat ≤ 0x7E → exec (.putChar c) s = .next { s with
      q := [.setDc .dat, .select true] ++
        ((List.range 8).map fun k => MicroOp.send (Config.glyph (c.toNat - 0x20) k)) ++ [.waitIdle, .select false]
      busy := true }) ∧
    (s.q = [] → s.seqState = .ready → c.toNat < 0x20 ∨ c.toNat = 0x7F →
      exec (.putChar c) s = .next { s with fault := 0x100 }) ∧
    (s.q = [] → s.seqState ≠ .ready → exec (.putChar c) s = .next { s with fault := 0x40 })

/-- PUT_CHAR of a code with bit 7 set, in READY, leaves every field unchanged (R174). -/
def Obligations.HighBitCodesDoNothing : Prop :=
  ∀ (s : State) (c : Byte), s.seqState = .ready → s.busy = false → s.q = [] → 0x80 ≤ c.toNat →
    exec (.putChar c) s = .next s

/-- TEST sets REFUSED and nothing else, for every pattern and every state of the engine; after it the block takes no
further request (R178, R233). -/
def Obligations.TestIsRefused : Prop :=
  (∀ (p : Params) (id : Byte), encode p (.test id) = .req (0x0000000C ||| (id.setWidth 32 <<< 8))) ∧
  ∀ (s : State) (id : Byte), Accepting s →
    exec (.test id) s = .next { s with refused := true } ∧
    ∀ i, isRequest i = true → exec i { s with refused := true } = .next { s with refused := true }

/-- In a faulted or refused block every request, and every write to REQ, changes nothing (R160, R234). -/
def Obligations.QuiescentIgnoresRequests : Prop :=
  ∀ s : State, s.fault ≠ 0 ∨ s.refused = true →
    (∀ i, isRequest i = true → exec i s = .next s) ∧ ∀ w, writeReq w s = .next s

/-- While a request runs, every write to REQ raises REQUEST_WHILE_BUSY, a word that is no request too, and the running
request stops (R160, R232, R235). -/
def Obligations.BusyRequestFaults : Prop :=
  ∀ s : State, s.fault = 0 → s.refused = false → s.busy = true →
    (∀ i, isRequest i = true → exec i s = .next { s with fault := 0x4, q := [], busy := false }) ∧
    ∀ w, writeReq w s = .next { s with fault := 0x4, q := [], busy := false }

/-! ### Micro-ops: SEQ's turn -/

/-- `u_SWRST` writes SWRST and SWRST_BUSY (R126). -/
def Obligations.SoftwareResetStarts : Prop :=
  ∀ (s : State) (rest : List MicroOp), SeqAt s .swrst rest →
    step s = .next { afterMicro s rest with pctrl := { s.pctrl with swrst := true }, swrstBusy := true }

/-- `u_WAIT_SWRST` holds while SWRST_BUSY is 1 and then has no effect (R127). That a holding turn is a step that changes only
the schedule and the counter is the model's choice (log entry 2). -/
def Obligations.SoftwareResetIsAwaited : Prop :=
  ∀ (s : State) (rest : List MicroOp), SeqAt s .waitSwrst rest →
    (s.swrstBusy = true → step s = .next (afterStep s)) ∧
    (s.swrstBusy = false → step s = .next (afterMicro s rest))

/-- `u_PROGRAM` writes the control fields, the divisor and SCK in one step (R128). -/
def Obligations.ProgramWritesConfiguration : Prop :=
  ∀ (s : State) (rest : List MicroOp), SeqAt s .program rest →
    step s = .next { afterMicro s rest with
      pctrl := ⟨s.pctrl.swrst, true, true, false, false, decide (s.params.dord ≠ .msbFirst), s.params.dipo, true⟩
      pbaud := BitVec.ofNat 8 (baudOf s.params.fRef)
      sck := .low }

/-- `u_STATE(t)` writes SEQ_STATE and nothing else (R163). -/
def Obligations.StateMicroOpMovesEngine : Prop :=
  ∀ (s : State) (t : SeqState) (rest : List MicroOp), SeqAt s (.state t) rest →
    step s = .next { afterMicro s rest with seqState := t }

/-- `u_SET_DC`, `u_SELECT`, `u_SEND` and `u_WAIT_IDLE` with ENABLE = 0 raise NOT_CONFIGURED and have no other effect
(R132). -/
def Obligations.UnconfiguredTransportFaults : Prop :=
  ∀ (s : State) (u : MicroOp) (rest : List MicroOp), SeqAt s u rest → s.pctrl.enable = false →
    (∃ m, u = .setDc m) ∨ (∃ a, u = .select a) ∨ (∃ v, u = .send v) ∨ u = .waitIdle →
    step s = .next (afterFault s 3)

/-- `u_SET_DC(m)` drives the mode line outside a frame, and faults MODE_CHANGE_IN_FRAME inside one (R133). -/
def Obligations.ModeLineIsDriven : Prop :=
  ∀ (s : State) (m : Mode) (rest : List MicroOp), SeqAt s (.setDc m) rest → s.pctrl.enable = true →
    (s.csN = true → step s = .next { afterMicro s rest with dc := some m }) ∧
    (s.csN = false → step s = .next (afterFault s 12))

/-- `u_SELECT(1)` opens a frame; a frame open faults NESTED_FRAME, a mode never written MODE_UNSET, in this order
(R134, R235). -/
def Obligations.SelectOpensFrame : Prop :=
  ∀ (s : State) (rest : List MicroOp), SeqAt s (.select true) rest → s.pctrl.enable = true →
    (∀ m, s.csN = true → s.dc = some m →
      step s = .next { afterMicro s rest with csN := false, trace := s.trace ++ [.frameOpen m] }) ∧
    (s.csN = false → step s = .next (afterFault s 9)) ∧
    (s.csN = true → s.dc = none → step s = .next (afterFault s 11))

/-- `u_SELECT(0)` closes a frame with nothing in flight; no frame open faults UNMATCHED_CLOSE, a byte in flight
TRUNCATED_FRAME, in this order (R135, R235). -/
def Obligations.SelectClosesFrame : Prop :=
  ∀ (s : State) (rest : List MicroOp), SeqAt s (.select false) rest → s.pctrl.enable = true →
    (s.csN = false → s.txbuf = none → s.shift = none →
      step s = .next { afterMicro s rest with csN := true, trace := s.trace ++ [.frameClose] }) ∧
    (s.csN = true → step s = .next (afterFault s 10)) ∧
    (s.csN = false → s.txbuf ≠ none ∨ s.shift ≠ none → step s = .next (afterFault s 14))

/-- `u_SEND(v)` fills the transmit register once DRE is 1 and clears DRE and TXC; outside a frame it faults
BYTE_OUTSIDE_FRAME before it holds (R136, R121). That a holding turn is a step that changes only the schedule and the counter
is the model's choice (log entry 2). -/
def Obligations.SendFillsTransmitRegister : Prop :=
  ∀ (s : State) (v : Byte) (rest : List MicroOp), SeqAt s (.send v) rest → s.pctrl.enable = true →
    (s.csN = false → s.dre = true →
      step s = .next { afterMicro s rest with txbuf := some v, dre := false, txc := false }) ∧
    (s.csN = false → s.dre = false → step s = .next (afterStep s)) ∧
    (s.csN = true → step s = .next (afterFault s 13))

/-- `u_WAIT_IDLE` holds until TXC is 1, inside a frame or outside, and does not clear it (R137). That a holding turn is a step
that changes only the schedule and the counter is the model's choice (log entry 2). -/
def Obligations.WaitIdleWaitsForTxc : Prop :=
  ∀ (s : State) (rest : List MicroOp), SeqAt s .waitIdle rest → s.pctrl.enable = true →
    (s.txc = true → step s = .next (afterMicro s rest)) ∧ (s.txc = false → step s = .next (afterStep s))

/-! ### SHIFT's turns -/

/-- SH_RESET, enabled iff SWRST_BUSY is 1, and its writes (R140). That its turn has no effect where it is not enabled is the
model's choice (log entry 2). -/
def Obligations.ShiftReset : Prop :=
  ∀ s : State, s.nextTurn = .shReset →
    (s.swrstBusy = true → step s = .next { afterStep s with
      pctrl := ⟨false, false, false, false, false, false, 0, false⟩, pbaud := 0, dre := true, txc := false, rxc := false,
      txbuf := none, shift := none, rxbuf := none, sck := .z, swrstBusy := false }) ∧
    (s.swrstBusy = false → step s = .next (afterStep s))

/-- SH_LOAD, its four enabling conditions, and its writes (R141). That its turn has no effect where one of them fails is the
model's choice (log entry 2). -/
def Obligations.ShiftLoad : Prop :=
  ∀ s : State, s.nextTurn = .shLoad →
    (∀ v, s.pctrl.enable = true → s.swrstBusy = false → s.shift = none → s.txbuf = some v →
      step s = .next { afterStep s with shift := some ⟨v, 8⟩, txbuf := none, dre := true }) ∧
    (s.pctrl.enable = false ∨ s.swrstBusy = true ∨ s.shift ≠ none ∨ s.txbuf = none → step s = .next (afterStep s))

/-- SH_BIT, enabled iff a bit is left: bit `k - 1` for DORD = 0 and bit `8 - k` for DORD = 1 is presented, and the count
goes down (R142). That its turn has no effect with no bit left is the model's choice (log entry 2), as is where the clock
pulse lies (log entry 10). -/
def Obligations.ShiftBit : Prop :=
  ∀ s : State, s.nextTurn = .shBit →
    (∀ r : ShiftReg, s.shift = some r → r.left ≠ 0 → ∃ r' : ShiftReg,
      r'.value = r.value ∧ r'.left.val + 1 = r.left.val ∧
      step s = .next { afterStep s with
        mosi := .bit (r.value.getLsbD (if s.pctrl.dord = false then r.left.val - 1 else 8 - r.left.val)),
        sck := .low, shift := some r' }) ∧
    ((∀ r : ShiftReg, s.shift = some r → r.left = 0) → step s = .next (afterStep s))

/-- SH_DONE for a Data byte: its event, the received draw, TXC where no byte waits, and the byte written at the panel's
cursor, whose column moves on within the window (R143, R75). -/
def Obligations.DataByteCompletes : Prop :=
  ∀ (s : State) (r : ShiftReg), s.nextTurn = .shDone → s.shift = some r → r.left = 0 → s.dc = some .dat →
    ∃ t : State, step s = .next t ∧
      t = { afterStep s with
        trace := s.trace ++ [.byte .dat r.value]
        rxbuf := if s.pctrl.rxen then some (Config.rxDraw (s.tick + 1)) else s.rxbuf
        rxc := s.rxc || s.pctrl.rxen
        shift := none
        mosi := .undriven
        txc := s.txc || s.txbuf.isNone
        panel := t.panel } ∧
      t.panel = { s.panel with ram := t.panel.ram, col := t.panel.col } ∧
      t.panel.ram.read (128 * s.panel.page.toNat + s.panel.col.toNat) = some r.value ∧
      (∀ a, a ≠ 128 * s.panel.page.toNat + s.panel.col.toNat → t.panel.ram.read a = s.panel.ram.read a) ∧
      t.panel.col = (if s.panel.col ≥ s.panel.winEnd then s.panel.winStart else s.panel.col + 1)

/-- Eight SH_BIT steps with DORD = 0 present bits 7, 6, …, 0 (R123, R142), and the receiver's samples of the waveform are
those bits in that order (R144). -/
def Obligations.BytesLeaveMsbFirst : Prop :=
  (∀ (s : State) (v : Byte) (n : Nat), s.shift = some ⟨v, 8⟩ → s.pctrl.dord = false → n < 8 →
    (shBit^[n + 1] s).mosi = .bit (v.getLsbD (7 - n))) ∧
  ∀ v : Byte, risingSamples (byteWave false v) = (List.range 8).map fun i => MosiPin.bit (v.getLsbD (7 - i))

/-! ### Host accesses -/

/-- A legal read of STATUS returns its fields and has no other effect; a write to it raises ILLEGAL_ACCESS (R27, R61). -/
def Obligations.StatusReadsFields : Prop :=
  ∀ (s : State) (rest : List HostAccess),
    (HostAt s ⟨0x4, 4, .read⟩ rest → ∃ w : Word, step s = .next { afterAccess s rest with replies := s.replies ++ [w] } ∧
      w.getLsbD 0 = s.busy ∧ (w.getLsbD 1 = true ↔ s.fault ≠ 0 ∨ s.refused = true) ∧
      w.extractLsb' 2 2 = (match s.seqState with
        | .uninit => 0
        | .poweredOff => 1
        | .initializing => 2
        | .ready => 3) ∧
      (w.getLsbD 4 = true ↔ s.csN = false) ∧ (w.getLsbD 5 = true ↔ s.dc = some .dat) ∧
      (w.getLsbD 6 = true ↔ s.dc ≠ none) ∧ w.getLsbD 7 = s.dre ∧ w.getLsbD 8 = s.txc ∧ w.getLsbD 9 = s.swrstBusy ∧
      w.getLsbD 10 = s.pctrl.enable ∧ w.extractLsb' 11 21 = 0) ∧
    ∀ v : Word, HostAt s ⟨0x4, 4, .write v⟩ rest → step s = .next { afterFault s 1 with hostIn := rest }

/-- A legal read of FAULTS returns the fault set in bits 15..0, one of REQ returns 0, with no other effect
(R28, R26, R61). -/
def Obligations.FaultsAndReqRead : Prop :=
  ∀ (s : State) (rest : List HostAccess),
    (HostAt s ⟨0x8, 4, .read⟩ rest → ∃ w : Word,
      step s = .next { afterAccess s rest with replies := s.replies ++ [w] } ∧
        ∀ i, w.getLsbD i = (decide (i < 16) && s.fault.getLsbD i)) ∧
    (HostAt s ⟨0x0, 4, .read⟩ rest → step s = .next { afterAccess s rest with replies := s.replies ++ [0] })

/-- An access of another width, a misaligned one, one at 0x0C, and a write to STATUS or FAULTS raise ILLEGAL_ACCESS, in a
faulted block too; an illegal read returns a draw (R62, R29, R232). -/
def Obligations.IllegalAccessesFault : Prop :=
  ∀ (s : State) (a : HostAccess) (rest : List HostAccess), HostAt s a rest →
    a.width ≠ 4 ∨ a.off.toNat % 4 ≠ 0 ∨ a.off = 0xC ∨ (a.op ≠ .read ∧ (a.off = 0x4 ∨ a.off = 0x8)) →
    (∀ v, a.op = .write v → step s = .next { afterFault s 1 with hostIn := rest }) ∧
    (a.op = .read → ∃ w : Word,
      step s = .next { afterFault s 1 with hostIn := rest, replies := s.replies ++ [w] })

/-! ### Controller commands at the panel -/

/-- SET_PAGE sets the page; SET_COLUMN_RANGE sets the window and moves the column to its start, each parameter cut to
seven bits (R73, R74, R217, R218). -/
def Obligations.CursorCommandsMoveCursor : Prop :=
  ∀ s : State,
    (∀ p, exec (.setPage p) s = .next { s with panel := { s.panel with page := p } }) ∧
    ∀ a b : Byte, exec (.setColumnRange a b) s = .next { s with panel := { s.panel with
      winStart := a.extractLsb' 0 7, winEnd := b.extractLsb' 0 7, col := a.extractLsb' 0 7 } }

/-- Every other completed command changes nothing (R76, R202-R216). -/
def Obligations.OtherCommandsDoNothing : Prop :=
  ∀ s : State, exec .displayOff s = .next s ∧ (∀ v, exec (.setClockDiv v) s = .next s) ∧
    (∀ v, exec (.setMultiplex v) s = .next s) ∧ (∀ v, exec (.setDisplayOffset v) s = .next s) ∧
    (∀ l, exec (.setStartLine l) s = .next s) ∧ (∀ v, exec (.chargePump v) s = .next s) ∧
    exec .segmentRemap s = .next s ∧ exec .comScanDir s = .next s ∧ (∀ v, exec (.setComPins v) s = .next s) ∧
    (∀ v, exec (.setContrast v) s = .next s) ∧ (∀ v, exec (.setPrecharge v) s = .next s) ∧
    (∀ v, exec (.setVcomh v) s = .next s) ∧ exec .entireDisplayResume s = .next s ∧
    (∀ l, exec (.setAddrMode l) s = .next s) ∧ ∀ l, exec (.displayOn l) s = .next s

/-! ### Rules about every step -/

/-- A fault bit and REFUSED, once set, stay set (R25). -/
def Obligations.FaultsAreSticky : Prop :=
  ∀ s t : State, step s = .next t →
    (∀ i, s.fault.getLsbD i = true → t.fault.getLsbD i = true) ∧ (s.refused = true → t.refused = true)

/-- In a faulted or refused block the fault set can only gain ILLEGAL_ACCESS, and the engine, the pins SEQ drives, and the
queue stay as they are (R234). -/
def Obligations.QuiescentBlockStaysPut : Prop :=
  ∀ s t : State, Inv s → s.fault ≠ 0 ∨ s.refused = true → step s = .next t →
    (t.fault = s.fault ∨ t.fault = s.fault ||| 0x2) ∧ t.refused = s.refused ∧ t.seqState = s.seqState ∧ t.q = [] ∧
      t.busy = false ∧ t.csN = s.csN ∧ t.dc = s.dc

/-- Only SEQ writes CS_N, DC and SEQ_STATE (R121, R39). -/
def Obligations.OnlySeqDrivesSelectAndMode : Prop :=
  ∀ s t : State, step s = .next t → s.nextTurn ≠ .seq →
    t.csN = s.csN ∧ t.dc = s.dc ∧ t.seqState = s.seqState

/-- The engine moves only from UNINIT to POWERED_OFF to INITIALIZING to READY, one at a time, and never leaves READY
(R22). -/
def Obligations.EngineMovesForward : Prop :=
  ∀ s t : State, Inv s → step s = .next t →
    t.seqState = s.seqState ∨ (s.seqState = .uninit ∧ t.seqState = .poweredOff) ∨
      (s.seqState = .poweredOff ∧ t.seqState = .initializing) ∨ (s.seqState = .initializing ∧ t.seqState = .ready)

/-- No step writes a launch parameter (R43, R65, R81). -/
def Obligations.ParametersAreConstant : Prop := ∀ s t : State, step s = .next t → t.params = s.params

/-- A step appends at most one event to the trace and removes none (R40; the events are R134's, R135's and R143's, and SEQ
runs one micro-op a step, R121). -/
def Obligations.TraceOnlyGrows : Prop :=
  ∀ s t : State, step s = .next t → ∃ es : List Event, es.length ≤ 1 ∧ t.trace = s.trace ++ es

/-- The invariant of the block's record is kept by every step. -/
def Obligations.InvariantIsKept : Prop := ∀ s t : State, Inv s → step s = .next t → Inv t

/-- Block reset has the invariant, under every parameter set. -/
def Obligations.InvariantAtReset : Prop := ∀ p : Params, Inv (.ofParams p)

/-- Under the invariant the machine never stops: every step answers a next state. -/
def Obligations.EveryStepAnswers : Prop := ∀ s : State, Inv s → ∃ t, step s = .next t

/-- The panel is the fold of the trace's byte events from its power-up state: at reset, and after every step (R70). -/
def Obligations.PanelIsFoldOfTrace : Prop :=
  (∀ p : Params, (State.ofParams p).panel = panelOf p (State.ofParams p).trace) ∧
  ∀ s t : State, s.panel = panelOf s.params s.trace → step s = .next t → t.panel = panelOf t.params t.trace

/-- With no frame open the trace is well-formed, and with one open, closing it makes it so (R41, R138). -/
def Obligations.TraceIsFrames : Prop :=
  ∀ s : State, Inv s → (s.csN = true → FrameTrace s.trace) ∧ (s.csN = false → FrameTrace (s.trace ++ [.frameClose]))

/-- While the host writes nothing and no fault is raised, the trace, the bytes in flight and the events of the queue
together stay the same: no schedule reorders, drops or adds a bus event (R78, R131, R138). -/
def Obligations.ProjectedTraceIsConstant : Prop :=
  ∀ s t : State, Inv s → s.hostIn = [] → step s = .next t → t.fault = s.fault →
    projectedTrace t = projectedTrace s

/-! ### Runs -/

/-- A row of frames, as SET_ADDRESS, CLEAR and PUT_CHAR queue it, never faults, whatever the schedule, and what it adds to the
trace is `FrameOpen(m) · Byte(m, v1) · … · FrameClose` for each frame in turn (R161, R162, R167, R170, R269). -/
def Obligations.FrameRunsOnEverySchedule : Prop :=
  ∀ (s t : State) (fs : List (Mode × List Byte)) (n : Nat), Inv s → s.quiescent = false → s.hostIn = [] →
    s.csN = true → s.pctrl.enable = true → s.q = (fs.map fun f => frame f.1 f.2).flatten → core.run n s = .next t →
    let es := (fs.map fun f => frameEvents f.1 f.2).flatten
    t.fault = 0 ∧ projectedTrace t = s.trace ++ es ∧
      (t.q = [] → t.trace = s.trace ++ es ∧ t.csN = true ∧ t.dc = (fs.getLast?.map Prod.fst <|> s.dc))

/-- What configure leaves when it completes, whatever the schedule (R129). -/
def Obligations.ConfigureLeavesValues : Prop :=
  ∀ (s u t : State) (n : Nat), Inv s → Accepting s → s.hostIn = [] → s.seqState = .uninit → s.pctrl.enable = false →
    exec .configure s = .next u → core.run n u = .next t →
    t.fault = 0 ∧ (t.q = [] → t.pctrl.enable = true ∧ t.dre = true ∧ t.txc = false ∧ t.txbuf = none ∧ t.shift = none ∧
      t.rxbuf = none ∧ t.sck = .low ∧ t.seqState = .poweredOff ∧ t.csN = s.csN ∧ t.dc = s.dc ∧ t.trace = s.trace)

/-- INIT, accepted with no frame open, never faults, whatever the schedule, and what it adds to the trace is the 13 init
frames, the clear of all eight pages, the addressing-mode frame and the Display On frame; its queue is empty exactly where
the engine is READY (R165, R166, R220). -/
def Obligations.InitRunsOnEverySchedule : Prop :=
  ∀ (s u t : State) (n : Nat), Inv s → Accepting s → s.hostIn = [] → s.csN = true →
    s.seqState = .uninit ∨ s.seqState = .poweredOff → exec .init s = .next u → core.run n u = .next t →
    t.fault = 0 ∧
      projectedTrace t = s.trace ++ (s.params.initTable.map (frameEvents .cmd)).flatten ++
        ((List.range 8).map fun k => frameEvents .cmd s.params.addrModeCmd ++
          frameEvents .cmd [BitVec.ofNat 8 (0xB0 + k)] ++ frameEvents .cmd [0x21, 0x00, 0x7F] ++
          frameEvents .dat (List.replicate 128 0)).flatten ++
        frameEvents .cmd s.params.addrModeCmd ++ frameEvents .cmd s.params.displayOnCmd ∧
      (t.q = [] ↔ t.seqState = .ready)

/-- On the reference panel a clear zeroes exactly the selected pages and leaves the cursor at column 0 of the last one,
with the whole window (R171, R75). -/
def Obligations.ClearZeroesSelectedPages : Prop :=
  ∀ (p : Params) (pn : Panel) (mask : Byte) (d : Option Mode), p.wf = true → pn.parse = .idle →
    let pn' := panelFold p pn (queueEvents d (clearOps p mask))
    (∀ (k : BitVec 3) (c : BitVec 7), pn'.ram.read (128 * k.toNat + c.toNat) =
      if mask.getLsbD k.toNat then some 0 else pn.ram.read (128 * k.toNat + c.toNat)) ∧
    pn'.parse = .idle ∧
    (mask ≠ 0 → pn'.col = 0 ∧ pn'.winStart = 0 ∧ pn'.winEnd = 127 ∧ mask.getLsbD pn'.page.toNat = true ∧
      ∀ k, pn'.page.toNat < k → mask.getLsbD k = false)

/-- The eight bytes of a glyph land at the columns the cursor passes, a later byte over an earlier one, and nothing else of
the RAM changes; the cursor ends after the eighth (R175, R66, R75). Within the window these are successive columns, and past
its end they go on from its start (R177). -/
def Obligations.GlyphLandsAtCursor : Prop :=
  ∀ (p : Params) (pn : Panel) (c : Byte) (d : Option Mode),
    let pn' := panelFold p pn (queueEvents d (dataFrame (glyph c)))
    let place := fun k => 128 * pn.page.toNat + (pn.columnAfter k).toNat
    let written := fun k => pn'.ram.read (place k) = some (Config.glyph (c.toNat - 0x20) k)
    (∀ k, k < 8 → (∀ j, k < j → j < 8 → pn.columnAfter j ≠ pn.columnAfter k) → written k) ∧
    (∀ a, (∀ k, k < 8 → a ≠ place k) → pn'.ram.read a = pn.ram.read a) ∧
    pn' = { pn with ram := pn'.ram, col := pn.columnAfter 8 } ∧
    (∀ k, k ≤ 8 → pn.col.toNat + k ≤ pn.winEnd.toNat → (pn.columnAfter k).toNat = pn.col.toNat + k) ∧
    (pn.col.toNat + 7 ≤ pn.winEnd.toNat → ∀ k, k < 8 → written k) ∧
    (pn.col ≤ pn.winEnd → pn.winStart.toNat + 7 ≤ pn.winEnd.toNat → (∀ k, k < 8 → written k) ∧
      ∀ k, k ≤ 8 → pn.winEnd.toNat < pn.col.toNat + k →
        (pn.columnAfter k).toNat = pn.winStart.toNat + (pn.col.toNat + k - pn.winEnd.toNat - 1))

/-- `WAIT_IDLE` with TXC = 0 and nothing in flight holds for good: no step lifts it, and the only way on is a fault the
host raises (R146, R268). -/
def Obligations.IdleWaitHangs : Prop :=
  ∀ (s t : State) (rest : List MicroOp) (n : Nat), Inv s → s.quiescent = false → s.pctrl.enable = true →
    s.q = .waitIdle :: rest → s.txc = false → s.txbuf = none → s.shift = none → core.run n s = .next t →
    t.quiescent = true ∨
      (t.q = .waitIdle :: rest ∧ t.busy = true ∧ t.txc = false ∧ t.txbuf = none ∧ t.shift = none ∧ t.trace = s.trace)

/-- With a responding peripheral, the wait for the software reset and the wait for a byte sent are both lifted, whatever
the schedule (R145). Every run then ends, and one whose SEQ does not hold for good ends with BUSY = 0 (R276); a run goes on
while HOST or SEQ has an enabled step (log entry 32). -/
def Obligations.ResponsivePeripheralLiftsWaits : Prop :=
  ∀ r : Nat → State, IsRun r → RespondsIfLive r → (r 0).params.periphLive = true → Inv (r 0) →
    ((r 0).swrstBusy = true → ∃ n, (r n).swrstBusy = false) ∧
    ((r 0).q.head? = some .waitIdle → (r 0).txbuf ≠ none ∨ (r 0).shift ≠ none →
      ∃ n, (r n).txc = true ∧ (r n).txbuf = none ∧ (r n).shift = none) ∧
    ((∃ v, (r 0).q.head? = some (.send v)) → (r 0).dre = false →
      ∃ n, (r n).dre = true) ∧
    (Proceeds r → (∃ n, Ended (r n)) ∧
      ((∀ n, ∃ m, n ≤ m ∧ seqHolding (r m) = false) → ∃ n, Ended (r n) ∧ (r n).busy = false))

/-- Where a run has ended, no software reset is in progress and nothing is in flight; the block is not busy, or SEQ holds;
the end is successful, faulted, refused or hung; and it stays ended, whatever else the host reads (R276). -/
def Obligations.EndedRunsAreIdle : Prop :=
  ∀ s : State, Inv s → Ended s →
    s.swrstBusy = false ∧ s.txbuf = none ∧ s.shift = none ∧ (s.busy = false ∨ seqHolding s = true) ∧
      (Successful s ∨ FaultedEnd s ∨ RefusedEnd s ∨ Hung s) ∧
      ∀ t, step s = .next t → Ended t ∧ t.trace = s.trace

/-! ### Launch, reset and the divisor -/

/-- Block reset, from any state, leaves every field of the block's record at the value the spec gives it, and the parameters
and the panel as they were (R42, R260, R261); it is an operation on states that leaves the model's own fields (log entry 20).
The machine's first state has those values, and the panel's window and parser of power-up (R71). -/
def Obligations.ResetValues : Prop :=
  let AtReset := fun s : State =>
    s.seqState = .uninit ∧ s.q = [] ∧ s.busy = false ∧ s.fault = 0 ∧ s.refused = false ∧
      s.pctrl = ⟨false, false, false, false, false, false, 0, false⟩ ∧ s.pbaud = 0 ∧ s.dre = true ∧ s.txc = false ∧
      s.rxc = false ∧ s.swrstBusy = false ∧ s.txbuf = none ∧ s.shift = none ∧ s.rxbuf = none ∧ s.csN = true ∧
      s.dc = none ∧ s.sck = .z ∧ s.mosi = .undriven ∧ s.trace = []
  (∀ s : State, AtReset s.blockReset ∧ s.blockReset.params = s.params ∧ s.blockReset.panel = s.panel ∧
    s.blockReset.hostIn = s.hostIn ∧ s.blockReset.replies = s.replies ∧ s.blockReset.turns = s.turns ∧
    s.blockReset.tick = s.tick) ∧
  AtReset State.reset ∧ State.reset.panel.winStart = 0 ∧ State.reset.panel.winEnd = 127 ∧
    State.reset.panel.parse = .idle

/-- A launch takes exactly the parameter sets with the thirteen lengths and the two least lengths, with first bytes that are
distinct and neither a page select nor the column range's (R200), with a positive clock an 8-bit divisor can bring to 10 MHz
(R7, R124), and with a window base on a word boundary (R7); it refuses every other. The default tables, which are presumed
(log entry 4), launch into the machine's first state (R201). -/
def Obligations.LaunchRefusesIllFormed : Prop :=
  (∀ p : Params,
    let firsts := (p.initTable ++ [p.addrModeCmd, p.displayOnCmd]).map fun c => c.headD 0
    let WellFormed := p.initTable.map List.length = [1, 2, 2, 2, 1, 2, 1, 1, 2, 2, 2, 2, 1] ∧
      1 ≤ p.addrModeCmd.length ∧ 1 ≤ p.displayOnCmd.length ∧ firsts.Pairwise (· ≠ ·) ∧
      (∀ b ∈ firsts, ¬(0xB0 ≤ b.toNat ∧ b.toNat ≤ 0xB7) ∧ b ≠ 0x21) ∧
      0 < p.fRef ∧ p.fRef ≤ 512 * 10000000 ∧ p.hostBase % 4 = 0
    (WellFormed → launch p = .next (.ofParams p)) ∧ (¬WellFormed → launch p = .refused .illFormedParameters)) ∧
    launch .default = .next State.reset ∧
    (∀ p : Params, 512 * 10000000 < p.fRef → launch p = .refused .illFormedParameters)

/-- The divisor is the smallest whose serial clock does not exceed 10 MHz, and it fits eight bits exactly where the clock
is at most 512 times that (R124, R125). -/
def Obligations.BaudIsFastestWithinLimit : Prop :=
  ∀ f : Nat, 0 < f →
    f ≤ 10000000 * (2 * (baudOf f + 1)) ∧ (∀ b, f ≤ 10000000 * (2 * (b + 1)) → baudOf f ≤ b) ∧
      (baudOf f < 256 ↔ f ≤ 512 * 10000000)
end

