-- ==== Sys2Proof/Laws/Memory.lean ====
section
/-! SUPPORT. The display RAM: a read after a write, and the canonical form every operation keeps. -/

namespace Sys2Proof.Machine

@[simp] theorem Memory.read_write_same (m : Memory) (a : Nat) (v : Byte) : (m.write a v).read a = some v := by
  induction m with
  | nil => simp [Memory.write, Memory.read]
  | cons c r ih =>
    obtain ⟨b, w⟩ := c
    by_cases h1 : a < b
    · simp [Memory.write, Memory.read, h1]
    · by_cases h2 : a = b
      · simp [Memory.write, Memory.read, h2]
      · have h3 : ¬b = a := fun h => h2 h.symm
        simp [Memory.write, Memory.read, h1, h2, h3, ih]

theorem Memory.read_write_other (m : Memory) {a b : Nat} (v : Byte) (h : b ≠ a) :
    (m.write a v).read b = m.read b := by
  induction m with
  | nil => simp [Memory.write, Memory.read, h.symm]
  | cons c r ih =>
    obtain ⟨d, w⟩ := c
    by_cases h1 : a < d
    · simp [Memory.write, Memory.read, h1, h.symm]
    · by_cases h2 : a = d
      · subst h2
        simp [Memory.write, Memory.read, h.symm]
      · simp [Memory.write, Memory.read, h1, h2, ih]

/-- A read of one address after a write to another or the same. -/
theorem Memory.read_write (m : Memory) (a b : Nat) (v : Byte) :
    (m.write a v).read b = if b = a then some v else m.read b := by
  by_cases h : b = a
  · simp [h]
  · simp [h, Memory.read_write_other m v h]

theorem Memory.wf_tail {c : Host.Cell} {r : Memory} (h : Memory.wf (c :: r) = true) : Memory.wf r = true := by
  cases r with
  | nil => rfl
  | cons d r => simp [Memory.wf] at h; exact h.2

theorem Memory.wf_cons {a : Nat} {v : Byte} {r : Memory} (ha : a < Config.pages * Config.columns)
    (hr : Memory.wf r = true) (hlt : ∀ c ∈ r.head?, a < c.1) : Memory.wf ((a, v) :: r) = true := by
  cases r with
  | nil => simpa [Memory.wf] using ha
  | cons d r => simp [Memory.wf, hr, hlt d (by simp)]

theorem Memory.head_write (m : Memory) (a : Nat) (v : Byte) :
    ∀ c ∈ (m.write a v).head?, c.1 = a ∨ c ∈ m.head? := by
  cases m with
  | nil => simp [Memory.write]
  | cons d r =>
    obtain ⟨b, w⟩ := d
    by_cases h1 : a < b
    · simp [Memory.write, h1]
    · by_cases h2 : a = b
      · simp [Memory.write, h2]
      · simp [Memory.write, h1, h2]

theorem Memory.wf_head_lt {a : Nat} {v : Byte} {r : Memory} (h : Memory.wf ((a, v) :: r) = true) :
    ∀ c ∈ r.head?, a < c.1 := by
  cases r with
  | nil => simp
  | cons d r => simp [Memory.wf] at h; simpa using h.1

theorem Memory.wf_head_bound {a : Nat} {v : Byte} {r : Memory} (h : Memory.wf ((a, v) :: r) = true) :
    a < Config.pages * Config.columns := by
  induction r generalizing a v with
  | nil => simpa [Memory.wf] using h
  | cons d r ih =>
    obtain ⟨b, w⟩ := d
    have h' := h
    simp only [Memory.wf, Bool.and_eq_true, decide_eq_true_eq] at h'
    exact lt_trans h'.1 (ih h'.2)

/-- A write to a place of the display RAM keeps the canonical form. -/
theorem Memory.write_wf {m : Memory} {a : Nat} (v : Byte) (ha : a < Config.pages * Config.columns)
    (h : m.wf = true) : (m.write a v).wf = true := by
  induction m with
  | nil => simpa [Memory.write, Memory.wf] using ha
  | cons c r ih =>
    obtain ⟨b, w⟩ := c
    by_cases h1 : a < b
    · simpa [Memory.write, h1] using Memory.wf_cons ha h (by simpa using h1)
    · by_cases h2 : a = b
      · subst h2
        simpa [Memory.write] using Memory.wf_cons ha (Memory.wf_tail h) (Memory.wf_head_lt h)
      · have hb := Memory.wf_head_bound h
        simp only [Memory.write, h1, h2, if_false]
        refine Memory.wf_cons hb (ih (Memory.wf_tail h)) fun c hc => ?_
        rcases Memory.head_write r a v c hc with h3 | h3
        · omega
        · exact Memory.wf_head_lt h c h3

/-- Every cursor names a place of the display RAM. -/
theorem ramAddr_lt (p : BitVec 3) (c : BitVec 7) : ramAddr p c < Config.pages * Config.columns := by
  have h1 := p.isLt
  have h2 := c.isLt
  simp only [ramAddr, Config.pages, Config.columns]
  omega

/-- A data write keeps the display RAM canonical. -/
theorem Panel.dataWrite_ram_wf {pn : Panel} (v : Byte) (h : pn.ram.wf = true) : (pn.dataWrite v).ram.wf = true :=
  Memory.write_wf v (ramAddr_lt pn.page pn.col) h

@[simp] theorem State.reset_ram_wf : State.reset.panel.ram.wf = true := rfl

end Sys2Proof.Machine
end

