-- ==== Sys2Proof/Laws/PerInstr.lean ====
section
/-! SUPPORT. Facts about every instruction as syntax, one lemma a constructor: the words and bytes the encoder writes meet
the match and mask of their row of spec/opcode_table.json. -/

namespace Sys2Proof.Laws.TableRow

/-- A request word meets a row's match under its mask (R93). -/
def Req (mask mtch : Word) : Encoding → Prop
  | .req w => w &&& mask = mtch
  | .ctl _ => False

/-- A controller command's opcode meets a row's match under its mask, and the command has the row's length (R200). -/
def Ctl (mask mtch : Byte) (len : Nat) : Encoding → Prop
  | .ctl (op :: ps) => op &&& mask = mtch ∧ ps.length + 1 = len
  | _ => False

/-- What the encoder writes for a well-formed instruction under the default tables is a word of the instruction's row. -/
def Statement (i : Instr) : Prop :=
  i.wf .default = true →
    match i with
    | .configure => Req 0xFFFFFFFF 0x00000001 (encode .default i)
    | .select _ => Req 0xFFFFFEFF 0x00000002 (encode .default i)
    | .setMode _ => Req 0xFFFFFEFF 0x00000003 (encode .default i)
    | .sendByte _ => Req 0xFFFF00FF 0x00000004 (encode .default i)
    | .waitIdle => Req 0xFFFFFFFF 0x00000005 (encode .default i)
    | .init => Req 0xFFFFFFFF 0x00000008 (encode .default i)
    | .setAddress _ _ => Req 0xFF0000FF 0x00000009 (encode .default i)
    | .clear _ => Req 0xFFFF00FF 0x0000000A (encode .default i)
    | .putChar _ => Req 0xFFFF00FF 0x0000000B (encode .default i)
    | .test _ => Req 0xFFFF00FF 0x0000000C (encode .default i)
    | .displayOff => Ctl 0xFF 0xAE 1 (encode .default i)
    | .setClockDiv _ => Ctl 0xFF 0xD5 2 (encode .default i)
    | .setMultiplex _ => Ctl 0xFF 0xA8 2 (encode .default i)
    | .setDisplayOffset _ => Ctl 0xFF 0xD3 2 (encode .default i)
    | .setStartLine _ => Ctl 0xC0 0x40 1 (encode .default i)
    | .chargePump _ => Ctl 0xFF 0x8D 2 (encode .default i)
    | .segmentRemap => Ctl 0xFF 0xA1 1 (encode .default i)
    | .comScanDir => Ctl 0xFF 0xC8 1 (encode .default i)
    | .setComPins _ => Ctl 0xFF 0xDA 2 (encode .default i)
    | .setContrast _ => Ctl 0xFF 0x81 2 (encode .default i)
    | .setPrecharge _ => Ctl 0xFF 0xD9 2 (encode .default i)
    | .setVcomh _ => Ctl 0xFF 0xDB 2 (encode .default i)
    | .entireDisplayResume => Ctl 0xFF 0xA4 1 (encode .default i)
    | .setAddrMode _ => Ctl 0xFF 0x20 2 (encode .default i)
    | .displayOn _ => Ctl 0xFF 0xAF 1 (encode .default i)
    | .setPage _ => Ctl 0xF8 0xB0 1 (encode .default i)
    | .setColumnRange _ _ => Ctl 0xFF 0x21 3 (encode .default i)

/-! ### Requests -/

theorem word_and (op : BitVec 4) (a0 a1 : Byte) (mask : Word) :
    reqWord op a0 a1 &&& mask =
      (op.setWidth 32 &&& mask) ||| (a0.setWidth 32 <<< 8 &&& mask) ||| (a1.setWidth 32 <<< 16 &&& mask) := by
  apply BitVec.eq_of_getLsbD_eq
  intro i _
  simp only [reqWord, BitVec.getLsbD_and, BitVec.getLsbD_or]
  cases mask.getLsbD i <;> simp

/-- The first operand's field is outside the mask of a row whose operand it is. -/
theorem arg0_masked (v : Byte) : v.setWidth 32 <<< 8 &&& (0xFFFF00FF : Word) = 0 := by revert v; decide

theorem address_masked (v : Byte) : v.setWidth 32 <<< 8 &&& (0xFF0000FF : Word) = 0 ∧
    v.setWidth 32 <<< 16 &&& (0xFF0000FF : Word) = 0 := by revert v; decide

theorem configure : Statement .configure := fun _ => by
  show reqWord _ _ _ &&& _ = _
  decide

theorem select (a : Bool) : Statement (.select a) := fun _ => by
  show reqWord _ (bitArg a) _ &&& _ = _
  revert a
  decide

theorem setMode (m : Mode) : Statement (.setMode m) := fun _ => by
  show reqWord _ (bitArg (bitOfMode m)) _ &&& _ = _
  cases m <;> decide

theorem sendByte (v : Byte) : Statement (.sendByte v) := fun _ => by
  show reqWord _ _ _ &&& _ = _
  rw [word_and, arg0_masked]
  decide

theorem waitIdle : Statement .waitIdle := fun _ => by
  show reqWord _ _ _ &&& _ = _
  decide

theorem init : Statement .init := fun _ => by
  show reqWord _ _ _ &&& _ = _
  decide

theorem setAddress (x : Byte) (p : Byte) : Statement (.setAddress x p) := fun _ => by
  show reqWord _ _ _ &&& _ = _
  rw [word_and, (address_masked x).1, (address_masked p).2]
  decide

theorem clear (mask : Byte) : Statement (.clear mask) := fun _ => by
  show reqWord _ _ _ &&& _ = _
  rw [word_and, arg0_masked]
  decide

theorem putChar (c : Byte) : Statement (.putChar c) := fun _ => by
  show reqWord _ _ _ &&& _ = _
  rw [word_and, arg0_masked]
  decide

theorem test (id : Byte) : Statement (.test id) := fun _ => by
  show reqWord _ _ _ &&& _ = _
  rw [word_and, arg0_masked]
  decide

/-! ### Controller commands -/

theorem displayOff : Statement .displayOff := fun _ => ⟨by decide, rfl⟩

theorem setClockDiv (div : Byte) : Statement (.setClockDiv div) := fun _ => ⟨by decide, rfl⟩

theorem setMultiplex (ratio : Byte) : Statement (.setMultiplex ratio) := fun _ => ⟨by decide, rfl⟩

theorem setDisplayOffset (offset : Byte) : Statement (.setDisplayOffset offset) := fun _ => ⟨by decide, rfl⟩

theorem setStartLine (line : BitVec 6) : Statement (.setStartLine line) := fun _ => by
  show startLineOpcode _ line &&& _ = _ ∧ _
  revert line
  decide

theorem chargePump (enable : Byte) : Statement (.chargePump enable) := fun _ => ⟨by decide, rfl⟩

theorem segmentRemap : Statement .segmentRemap := fun _ => ⟨by decide, rfl⟩

theorem comScanDir : Statement .comScanDir := fun _ => ⟨by decide, rfl⟩

theorem setComPins (config : Byte) : Statement (.setComPins config) := fun _ => ⟨by decide, rfl⟩

theorem setContrast (contrast : Byte) : Statement (.setContrast contrast) := fun _ => ⟨by decide, rfl⟩

theorem setPrecharge (period : Byte) : Statement (.setPrecharge period) := fun _ => ⟨by decide, rfl⟩

theorem setVcomh (level : Byte) : Statement (.setVcomh level) := fun _ => ⟨by decide, rfl⟩

theorem entireDisplayResume : Statement .entireDisplayResume := fun _ => ⟨by decide, rfl⟩

theorem setAddrMode (mode : List Byte) : Statement (.setAddrMode mode) := fun h => ⟨by decide, of_decide_eq_true h⟩

theorem displayOn (extra : List Byte) : Statement (.displayOn extra) := fun h => ⟨by decide, of_decide_eq_true h⟩

theorem setPage (p : BitVec 3) : Statement (.setPage p) := fun _ => by
  show 0b10110#5 ++ p &&& _ = _ ∧ _
  revert p
  decide

theorem setColumnRange (first : Byte) (last : Byte) : Statement (.setColumnRange first last) := fun _ => ⟨by decide, rfl⟩

end Sys2Proof.Laws.TableRow
end

