-- ==== Sys2Proof/Laws/State.lean ====
section
/-! SUPPORT. What each named update of the state does to each field, one lemma a field, so that no proof unfolds a record
update. -/

namespace Sys2Proof.Machine

/-! ### `State.raise` -/

@[simp] theorem State.raise_seqState (s : State) (c : FaultCause) : (s.raise c).seqState = s.seqState := rfl
@[simp] theorem State.raise_q (s : State) (c : FaultCause) : (s.raise c).q = [] := rfl
@[simp] theorem State.raise_busy (s : State) (c : FaultCause) : (s.raise c).busy = false := rfl
@[simp] theorem State.raise_fault (s : State) (c : FaultCause) : (s.raise c).fault = s.fault ||| c.mask := rfl
@[simp] theorem State.raise_refused (s : State) (c : FaultCause) : (s.raise c).refused = s.refused := rfl
@[simp] theorem State.raise_pctrl (s : State) (c : FaultCause) : (s.raise c).pctrl = s.pctrl := rfl
@[simp] theorem State.raise_pbaud (s : State) (c : FaultCause) : (s.raise c).pbaud = s.pbaud := rfl
@[simp] theorem State.raise_dre (s : State) (c : FaultCause) : (s.raise c).dre = s.dre := rfl
@[simp] theorem State.raise_txc (s : State) (c : FaultCause) : (s.raise c).txc = s.txc := rfl
@[simp] theorem State.raise_rxc (s : State) (c : FaultCause) : (s.raise c).rxc = s.rxc := rfl
@[simp] theorem State.raise_swrstBusy (s : State) (c : FaultCause) : (s.raise c).swrstBusy = s.swrstBusy := rfl
@[simp] theorem State.raise_txbuf (s : State) (c : FaultCause) : (s.raise c).txbuf = s.txbuf := rfl
@[simp] theorem State.raise_shift (s : State) (c : FaultCause) : (s.raise c).shift = s.shift := rfl
@[simp] theorem State.raise_rxbuf (s : State) (c : FaultCause) : (s.raise c).rxbuf = s.rxbuf := rfl
@[simp] theorem State.raise_csN (s : State) (c : FaultCause) : (s.raise c).csN = s.csN := rfl
@[simp] theorem State.raise_dc (s : State) (c : FaultCause) : (s.raise c).dc = s.dc := rfl
@[simp] theorem State.raise_sck (s : State) (c : FaultCause) : (s.raise c).sck = s.sck := rfl
@[simp] theorem State.raise_mosi (s : State) (c : FaultCause) : (s.raise c).mosi = s.mosi := rfl
@[simp] theorem State.raise_trace (s : State) (c : FaultCause) : (s.raise c).trace = s.trace := rfl
@[simp] theorem State.raise_panel (s : State) (c : FaultCause) : (s.raise c).panel = s.panel := rfl
@[simp] theorem State.raise_params (s : State) (c : FaultCause) : (s.raise c).params = s.params := rfl
@[simp] theorem State.raise_hostIn (s : State) (c : FaultCause) : (s.raise c).hostIn = s.hostIn := rfl
@[simp] theorem State.raise_replies (s : State) (c : FaultCause) : (s.raise c).replies = s.replies := rfl
@[simp] theorem State.raise_turns (s : State) (c : FaultCause) : (s.raise c).turns = s.turns := rfl
@[simp] theorem State.raise_tick (s : State) (c : FaultCause) : (s.raise c).tick = s.tick := rfl

/-! ### `State.refuse` -/

@[simp] theorem State.refuse_seqState (s : State) : (s.refuse).seqState = s.seqState := rfl
@[simp] theorem State.refuse_q (s : State) : (s.refuse).q = s.q := rfl
@[simp] theorem State.refuse_busy (s : State) : (s.refuse).busy = s.busy := rfl
@[simp] theorem State.refuse_fault (s : State) : (s.refuse).fault = s.fault := rfl
@[simp] theorem State.refuse_refused (s : State) : (s.refuse).refused = true := rfl
@[simp] theorem State.refuse_pctrl (s : State) : (s.refuse).pctrl = s.pctrl := rfl
@[simp] theorem State.refuse_pbaud (s : State) : (s.refuse).pbaud = s.pbaud := rfl
@[simp] theorem State.refuse_dre (s : State) : (s.refuse).dre = s.dre := rfl
@[simp] theorem State.refuse_txc (s : State) : (s.refuse).txc = s.txc := rfl
@[simp] theorem State.refuse_rxc (s : State) : (s.refuse).rxc = s.rxc := rfl
@[simp] theorem State.refuse_swrstBusy (s : State) : (s.refuse).swrstBusy = s.swrstBusy := rfl
@[simp] theorem State.refuse_txbuf (s : State) : (s.refuse).txbuf = s.txbuf := rfl
@[simp] theorem State.refuse_shift (s : State) : (s.refuse).shift = s.shift := rfl
@[simp] theorem State.refuse_rxbuf (s : State) : (s.refuse).rxbuf = s.rxbuf := rfl
@[simp] theorem State.refuse_csN (s : State) : (s.refuse).csN = s.csN := rfl
@[simp] theorem State.refuse_dc (s : State) : (s.refuse).dc = s.dc := rfl
@[simp] theorem State.refuse_sck (s : State) : (s.refuse).sck = s.sck := rfl
@[simp] theorem State.refuse_mosi (s : State) : (s.refuse).mosi = s.mosi := rfl
@[simp] theorem State.refuse_trace (s : State) : (s.refuse).trace = s.trace := rfl
@[simp] theorem State.refuse_panel (s : State) : (s.refuse).panel = s.panel := rfl
@[simp] theorem State.refuse_params (s : State) : (s.refuse).params = s.params := rfl
@[simp] theorem State.refuse_hostIn (s : State) : (s.refuse).hostIn = s.hostIn := rfl
@[simp] theorem State.refuse_replies (s : State) : (s.refuse).replies = s.replies := rfl
@[simp] theorem State.refuse_turns (s : State) : (s.refuse).turns = s.turns := rfl
@[simp] theorem State.refuse_tick (s : State) : (s.refuse).tick = s.tick := rfl

/-! ### `State.emit` -/

@[simp] theorem State.emit_seqState (s : State) (e : Event) : (s.emit e).seqState = s.seqState := rfl
@[simp] theorem State.emit_q (s : State) (e : Event) : (s.emit e).q = s.q := rfl
@[simp] theorem State.emit_busy (s : State) (e : Event) : (s.emit e).busy = s.busy := rfl
@[simp] theorem State.emit_fault (s : State) (e : Event) : (s.emit e).fault = s.fault := rfl
@[simp] theorem State.emit_refused (s : State) (e : Event) : (s.emit e).refused = s.refused := rfl
@[simp] theorem State.emit_pctrl (s : State) (e : Event) : (s.emit e).pctrl = s.pctrl := rfl
@[simp] theorem State.emit_pbaud (s : State) (e : Event) : (s.emit e).pbaud = s.pbaud := rfl
@[simp] theorem State.emit_dre (s : State) (e : Event) : (s.emit e).dre = s.dre := rfl
@[simp] theorem State.emit_txc (s : State) (e : Event) : (s.emit e).txc = s.txc := rfl
@[simp] theorem State.emit_rxc (s : State) (e : Event) : (s.emit e).rxc = s.rxc := rfl
@[simp] theorem State.emit_swrstBusy (s : State) (e : Event) : (s.emit e).swrstBusy = s.swrstBusy := rfl
@[simp] theorem State.emit_txbuf (s : State) (e : Event) : (s.emit e).txbuf = s.txbuf := rfl
@[simp] theorem State.emit_shift (s : State) (e : Event) : (s.emit e).shift = s.shift := rfl
@[simp] theorem State.emit_rxbuf (s : State) (e : Event) : (s.emit e).rxbuf = s.rxbuf := rfl
@[simp] theorem State.emit_csN (s : State) (e : Event) : (s.emit e).csN = s.csN := rfl
@[simp] theorem State.emit_dc (s : State) (e : Event) : (s.emit e).dc = s.dc := rfl
@[simp] theorem State.emit_sck (s : State) (e : Event) : (s.emit e).sck = s.sck := rfl
@[simp] theorem State.emit_mosi (s : State) (e : Event) : (s.emit e).mosi = s.mosi := rfl
@[simp] theorem State.emit_trace (s : State) (e : Event) : (s.emit e).trace = s.trace ++ [e] := rfl
@[simp] theorem State.emit_panel (s : State) (e : Event) : (s.emit e).panel = s.panel := rfl
@[simp] theorem State.emit_params (s : State) (e : Event) : (s.emit e).params = s.params := rfl
@[simp] theorem State.emit_hostIn (s : State) (e : Event) : (s.emit e).hostIn = s.hostIn := rfl
@[simp] theorem State.emit_replies (s : State) (e : Event) : (s.emit e).replies = s.replies := rfl
@[simp] theorem State.emit_turns (s : State) (e : Event) : (s.emit e).turns = s.turns := rfl
@[simp] theorem State.emit_tick (s : State) (e : Event) : (s.emit e).tick = s.tick := rfl

/-! ### `State.beginStep` -/

@[simp] theorem State.beginStep_seqState (s : State) : (s.beginStep).seqState = s.seqState := rfl
@[simp] theorem State.beginStep_q (s : State) : (s.beginStep).q = s.q := rfl
@[simp] theorem State.beginStep_busy (s : State) : (s.beginStep).busy = s.busy := rfl
@[simp] theorem State.beginStep_fault (s : State) : (s.beginStep).fault = s.fault := rfl
@[simp] theorem State.beginStep_refused (s : State) : (s.beginStep).refused = s.refused := rfl
@[simp] theorem State.beginStep_pctrl (s : State) : (s.beginStep).pctrl = s.pctrl := rfl
@[simp] theorem State.beginStep_pbaud (s : State) : (s.beginStep).pbaud = s.pbaud := rfl
@[simp] theorem State.beginStep_dre (s : State) : (s.beginStep).dre = s.dre := rfl
@[simp] theorem State.beginStep_txc (s : State) : (s.beginStep).txc = s.txc := rfl
@[simp] theorem State.beginStep_rxc (s : State) : (s.beginStep).rxc = s.rxc := rfl
@[simp] theorem State.beginStep_swrstBusy (s : State) : (s.beginStep).swrstBusy = s.swrstBusy := rfl
@[simp] theorem State.beginStep_txbuf (s : State) : (s.beginStep).txbuf = s.txbuf := rfl
@[simp] theorem State.beginStep_shift (s : State) : (s.beginStep).shift = s.shift := rfl
@[simp] theorem State.beginStep_rxbuf (s : State) : (s.beginStep).rxbuf = s.rxbuf := rfl
@[simp] theorem State.beginStep_csN (s : State) : (s.beginStep).csN = s.csN := rfl
@[simp] theorem State.beginStep_dc (s : State) : (s.beginStep).dc = s.dc := rfl
@[simp] theorem State.beginStep_sck (s : State) : (s.beginStep).sck = s.sck := rfl
@[simp] theorem State.beginStep_mosi (s : State) : (s.beginStep).mosi = s.mosi := rfl
@[simp] theorem State.beginStep_trace (s : State) : (s.beginStep).trace = s.trace := rfl
@[simp] theorem State.beginStep_panel (s : State) : (s.beginStep).panel = s.panel := rfl
@[simp] theorem State.beginStep_params (s : State) : (s.beginStep).params = s.params := rfl
@[simp] theorem State.beginStep_hostIn (s : State) : (s.beginStep).hostIn = s.hostIn := rfl
@[simp] theorem State.beginStep_replies (s : State) : (s.beginStep).replies = s.replies := rfl
@[simp] theorem State.beginStep_turns (s : State) : (s.beginStep).turns = s.turns.tail := rfl
@[simp] theorem State.beginStep_tick (s : State) : (s.beginStep).tick = s.tick + 1 := rfl

/-! ### `State.reply` -/

@[simp] theorem State.reply_seqState (s : State) (w : Word) : (s.reply w).seqState = s.seqState := rfl
@[simp] theorem State.reply_q (s : State) (w : Word) : (s.reply w).q = s.q := rfl
@[simp] theorem State.reply_busy (s : State) (w : Word) : (s.reply w).busy = s.busy := rfl
@[simp] theorem State.reply_fault (s : State) (w : Word) : (s.reply w).fault = s.fault := rfl
@[simp] theorem State.reply_refused (s : State) (w : Word) : (s.reply w).refused = s.refused := rfl
@[simp] theorem State.reply_pctrl (s : State) (w : Word) : (s.reply w).pctrl = s.pctrl := rfl
@[simp] theorem State.reply_pbaud (s : State) (w : Word) : (s.reply w).pbaud = s.pbaud := rfl
@[simp] theorem State.reply_dre (s : State) (w : Word) : (s.reply w).dre = s.dre := rfl
@[simp] theorem State.reply_txc (s : State) (w : Word) : (s.reply w).txc = s.txc := rfl
@[simp] theorem State.reply_rxc (s : State) (w : Word) : (s.reply w).rxc = s.rxc := rfl
@[simp] theorem State.reply_swrstBusy (s : State) (w : Word) : (s.reply w).swrstBusy = s.swrstBusy := rfl
@[simp] theorem State.reply_txbuf (s : State) (w : Word) : (s.reply w).txbuf = s.txbuf := rfl
@[simp] theorem State.reply_shift (s : State) (w : Word) : (s.reply w).shift = s.shift := rfl
@[simp] theorem State.reply_rxbuf (s : State) (w : Word) : (s.reply w).rxbuf = s.rxbuf := rfl
@[simp] theorem State.reply_csN (s : State) (w : Word) : (s.reply w).csN = s.csN := rfl
@[simp] theorem State.reply_dc (s : State) (w : Word) : (s.reply w).dc = s.dc := rfl
@[simp] theorem State.reply_sck (s : State) (w : Word) : (s.reply w).sck = s.sck := rfl
@[simp] theorem State.reply_mosi (s : State) (w : Word) : (s.reply w).mosi = s.mosi := rfl
@[simp] theorem State.reply_trace (s : State) (w : Word) : (s.reply w).trace = s.trace := rfl
@[simp] theorem State.reply_panel (s : State) (w : Word) : (s.reply w).panel = s.panel := rfl
@[simp] theorem State.reply_params (s : State) (w : Word) : (s.reply w).params = s.params := rfl
@[simp] theorem State.reply_hostIn (s : State) (w : Word) : (s.reply w).hostIn = s.hostIn := rfl
@[simp] theorem State.reply_replies (s : State) (w : Word) : (s.reply w).replies = s.replies ++ [w] := rfl
@[simp] theorem State.reply_turns (s : State) (w : Word) : (s.reply w).turns = s.turns := rfl
@[simp] theorem State.reply_tick (s : State) (w : Word) : (s.reply w).tick = s.tick := rfl

/-! ### `State.retire` -/

@[simp] theorem State.retire_seqState (s : State) (l : List MicroOp) : (s.retire l).seqState = s.seqState := rfl
@[simp] theorem State.retire_q (s : State) (l : List MicroOp) : (s.retire l).q = l := rfl
@[simp] theorem State.retire_busy (s : State) (l : List MicroOp) : (s.retire l).busy = if l = [] then false else s.busy := rfl
@[simp] theorem State.retire_fault (s : State) (l : List MicroOp) : (s.retire l).fault = s.fault := rfl
@[simp] theorem State.retire_refused (s : State) (l : List MicroOp) : (s.retire l).refused = s.refused := rfl
@[simp] theorem State.retire_pctrl (s : State) (l : List MicroOp) : (s.retire l).pctrl = s.pctrl := rfl
@[simp] theorem State.retire_pbaud (s : State) (l : List MicroOp) : (s.retire l).pbaud = s.pbaud := rfl
@[simp] theorem State.retire_dre (s : State) (l : List MicroOp) : (s.retire l).dre = s.dre := rfl
@[simp] theorem State.retire_txc (s : State) (l : List MicroOp) : (s.retire l).txc = s.txc := rfl
@[simp] theorem State.retire_rxc (s : State) (l : List MicroOp) : (s.retire l).rxc = s.rxc := rfl
@[simp] theorem State.retire_swrstBusy (s : State) (l : List MicroOp) : (s.retire l).swrstBusy = s.swrstBusy := rfl
@[simp] theorem State.retire_txbuf (s : State) (l : List MicroOp) : (s.retire l).txbuf = s.txbuf := rfl
@[simp] theorem State.retire_shift (s : State) (l : List MicroOp) : (s.retire l).shift = s.shift := rfl
@[simp] theorem State.retire_rxbuf (s : State) (l : List MicroOp) : (s.retire l).rxbuf = s.rxbuf := rfl
@[simp] theorem State.retire_csN (s : State) (l : List MicroOp) : (s.retire l).csN = s.csN := rfl
@[simp] theorem State.retire_dc (s : State) (l : List MicroOp) : (s.retire l).dc = s.dc := rfl
@[simp] theorem State.retire_sck (s : State) (l : List MicroOp) : (s.retire l).sck = s.sck := rfl
@[simp] theorem State.retire_mosi (s : State) (l : List MicroOp) : (s.retire l).mosi = s.mosi := rfl
@[simp] theorem State.retire_trace (s : State) (l : List MicroOp) : (s.retire l).trace = s.trace := rfl
@[simp] theorem State.retire_panel (s : State) (l : List MicroOp) : (s.retire l).panel = s.panel := rfl
@[simp] theorem State.retire_params (s : State) (l : List MicroOp) : (s.retire l).params = s.params := rfl
@[simp] theorem State.retire_hostIn (s : State) (l : List MicroOp) : (s.retire l).hostIn = s.hostIn := rfl
@[simp] theorem State.retire_replies (s : State) (l : List MicroOp) : (s.retire l).replies = s.replies := rfl
@[simp] theorem State.retire_turns (s : State) (l : List MicroOp) : (s.retire l).turns = s.turns := rfl
@[simp] theorem State.retire_tick (s : State) (l : List MicroOp) : (s.retire l).tick = s.tick := rfl

@[simp] theorem State.reset_params : State.reset.params = Params.default := rfl

/-- A quiescent block is one with a fault or a refusal recorded (R25). -/
theorem State.quiescent_iff (s : State) : s.quiescent = true ↔ s.fault ≠ 0 ∨ s.refused = true := by
  simp [State.quiescent]

theorem State.quiescent_false_iff (s : State) : s.quiescent = false ↔ s.fault = 0 ∧ s.refused = false := by
  simp [State.quiescent]

/-- A cause's bit is set by the fault action, so the set is not empty after it. -/
theorem FaultCause.or_mask_ne_zero (f : BitVec 16) (c : FaultCause) : f ||| c.mask ≠ 0 := by
  intro h
  have hb : (f ||| c.mask).getLsbD c.code = true := by
    cases c <;> simp [FaultCause.mask, FaultCause.code]
  rw [h] at hb
  simp at hb

/-- A raised fault leaves the block quiescent (R234). -/
@[simp] theorem State.raise_quiescent (s : State) (c : FaultCause) : (s.raise c).quiescent = true :=
  (State.quiescent_iff _).2 (.inl (FaultCause.or_mask_ne_zero s.fault c))

end Sys2Proof.Machine
end

