-- ==== Sys2Proof/Laws/Steps.lean ====
section
/-! SUPPORT. What each shared operation, each turn, and so a whole step can do, said once: one lemma an operation, which
proofs cite instead of unfolding it. -/

namespace Sys2Proof.Machine

/-! ### Acceptance -/

/-- Everything `acceptRequest` can do (R160). -/
theorem acceptRequest_cases (e : Expansion) (s : State) :
    (s.quiescent = true ∧ acceptRequest e s = s) ∨
    (s.quiescent = false ∧ s.busy = true ∧ acceptRequest e s = s.raise .requestWhileBusy) ∨
    (s.quiescent = false ∧ s.busy = false ∧
      ((∃ l, e = .ops l ∧ acceptRequest e s = { s with q := l, busy := decide (l ≠ []) }) ∨
        (∃ c, e = .fault c ∧ acceptRequest e s = s.raise c) ∨ (e = .refuse ∧ acceptRequest e s = s.refuse))) := by
  unfold acceptRequest
  cases hq : s.quiescent
  · cases hb : s.busy
    · cases e <;> simp
    · simp
  · simp

theorem acceptRequest_quiescent {s : State} (e : Expansion) (h : s.quiescent = true) : acceptRequest e s = s := by
  simp [acceptRequest, h]

theorem acceptRequest_busy {s : State} (e : Expansion) (h : s.quiescent = false) (hb : s.busy = true) :
    acceptRequest e s = s.raise .requestWhileBusy := by
  simp [acceptRequest, h, hb]

theorem Accepting.quiescent {s : State} (h : Accepting s) : s.quiescent = false :=
  (State.quiescent_false_iff s).2 ⟨h.1, h.2.1⟩

theorem acceptRequest_ops {s : State} (l : List MicroOp) (h : Accepting s) :
    acceptRequest (.ops l) s = { s with q := l, busy := decide (l ≠ []) } := by
  simp [acceptRequest, h.quiescent, h.2.2]

theorem acceptRequest_fault {s : State} (c : FaultCause) (h : Accepting s) :
    acceptRequest (.fault c) s = s.raise c := by
  simp [acceptRequest, h.quiescent, h.2.2]

theorem acceptRequest_refuse {s : State} (h : Accepting s) : acceptRequest .refuse s = s.refuse := by
  simp [acceptRequest, h.quiescent, h.2.2]

/-- The expansion of a request in a state; a controller command has none. -/
def expand : Instr → State → Option Expansion
  | .configure, s => some (expandConfigure s)
  | .select a, _ => some (.ops [.select a])
  | .setMode m, _ => some (.ops [.setDc m])
  | .sendByte v, _ => some (.ops [.send v])
  | .waitIdle, _ => some (.ops [.waitIdle])
  | .init, s => some (expandInit s)
  | .setAddress x p, s => some (expandSetAddress x p s)
  | .clear mask, s => some (expandClear mask s)
  | .putChar c, s => some (expandPutChar c s)
  | .test _, _ => some .refuse
  | _, _ => none

/-- Everything a request does: its expansion is offered for acceptance. -/
theorem exec_request {i : Instr} (h : isRequest i = true) (s : State) :
    ∃ e, expand i s = some e ∧ exec i s = .next (acceptRequest e s) := by
  cases i <;> first | exact ⟨_, rfl, rfl⟩ | simp [isRequest] at h

/-- What a completed controller command does to the panel. -/
def commandEffect : Instr → Panel → Panel
  | .setPage p, pn => pn.setPage p
  | .setColumnRange a b, pn => pn.setColumnRange a b
  | _, pn => pn

/-- Everything a controller command does: its effect on the panel. -/
theorem exec_command {i : Instr} (h : isRequest i = false) (s : State) :
    exec i s = .next { s with panel := commandEffect i s.panel } := by
  cases i <;> first | rfl | simp [isRequest] at h

/-! ### Decoding gives requests from words and commands from bytes -/

theorem operandsClear_ok {b : Bool} {i j : Instr} (h : operandsClear b i = .ok j) : b = true ∧ i = j := by
  cases b with
  | false => simp [operandsClear] at h
  | true => injection h with h; exact ⟨rfl, h⟩

/-- Everything the OP decoder can answer: ten requests, each with its must-be-zero operand bits zero (R93, R96). -/
theorem decodeOp_cases {op : BitVec 4} {a0 a1 : Byte} {i : Instr} (h : decodeOp op a0 a1 = .ok i) :
    (op.toNat = 0x1 ∧ a0 = 0 ∧ a1 = 0 ∧ i = .configure) ∨
    (op.toNat = 0x2 ∧ a0.extractLsb' 1 7 = 0 ∧ a1 = 0 ∧ i = .select (a0.getLsbD 0)) ∨
    (op.toNat = 0x3 ∧ a0.extractLsb' 1 7 = 0 ∧ a1 = 0 ∧ i = .setMode (modeOfBit (a0.getLsbD 0))) ∨
    (op.toNat = 0x4 ∧ a1 = 0 ∧ i = .sendByte a0) ∨ (op.toNat = 0x5 ∧ a0 = 0 ∧ a1 = 0 ∧ i = .waitIdle) ∨
    (op.toNat = 0x8 ∧ a0 = 0 ∧ a1 = 0 ∧ i = .init) ∨ (op.toNat = 0x9 ∧ i = .setAddress a0 a1) ∨
    (op.toNat = 0xA ∧ a1 = 0 ∧ i = .clear a0) ∨ (op.toNat = 0xB ∧ a1 = 0 ∧ i = .putChar a0) ∨
    (op.toNat = 0xC ∧ a1 = 0 ∧ i = .test a0) := by
  unfold decodeOp at h
  split at h <;>
    first
    | (obtain ⟨hb, rfl⟩ := operandsClear_ok h; simp_all)
    | (injection h with h; simp_all)
    | injection h

theorem decodeReq_isRequest {w : Word} {i : Instr} (h : decodeReq w = .ok i) : isRequest i = true := by
  unfold decodeReq at h
  split at h
  · rcases decodeOp_cases h with ⟨-, -, -, rfl⟩ | ⟨-, -, -, rfl⟩ | ⟨-, -, -, rfl⟩ | ⟨-, -, rfl⟩ | ⟨-, -, -, rfl⟩ |
      ⟨-, -, -, rfl⟩ | ⟨-, rfl⟩ | ⟨-, -, rfl⟩ | ⟨-, -, rfl⟩ | ⟨-, -, rfl⟩ <;> rfl
  · injection h

theorem commandOfRole_isCommand {k : Nat} {op : Byte} {ps : List Byte} {i : Instr}
    (h : commandOfRole k op ps = some i) : isRequest i = false := by
  unfold commandOfRole at h
  split at h <;> first | (injection h with h; subst h; rfl) | simp at h

theorem commandOf_isCommand {p : Params} {op : Byte} {ps : List Byte} {i : Instr} (h : commandOf p op ps = some i) :
    isRequest i = false := by
  unfold commandOf at h
  split at h
  · split at h
    · injection h with h; subst h; rfl
    · simp at h
  split at h
  · split at h
    · injection h with h; subst h; rfl
    · simp at h
  · split at h
    · next hk => exact commandOfRole_isCommand h
    · split at h
      · injection h with h; subst h; rfl
      · simp at h

/-- A decoded controller command, taken apart. -/
theorem decode_ctl_cases {p : Params} {bs : List Byte} {i : Instr} (h : decode p (.ctl bs) = .ok i) :
    ∃ op ps, bs = op :: ps ∧ ps.length = cmdLen p op - 1 ∧ commandOf p op ps = some i := by
  cases bs with
  | nil => simp [decode, decodeCtl] at h
  | cons op rest =>
    refine ⟨op, rest, rfl, ?_⟩
    simp only [decode, decodeCtl] at h
    by_cases hl : rest.length < cmdLen p op - 1
    · simp [hl] at h
    · simp only [hl, if_false] at h
      cases hc : commandOf p op (rest.take (cmdLen p op - 1)) with
      | none => simp [hc] at h
      | some j =>
        simp only [hc] at h
        cases hd : rest.drop (cmdLen p op - 1) with
        | cons a l => simp [hd] at h
        | nil =>
          simp only [hd] at h
          injection h with h
          have hle := List.drop_eq_nil_iff.mp hd
          have heq : rest.length = cmdLen p op - 1 := by omega
          refine ⟨heq, ?_⟩
          rw [← heq, List.take_length] at hc
          rw [hc, h]

theorem decode_ctl_isCommand {p : Params} {bs : List Byte} {i : Instr} (h : decode p (.ctl bs) = .ok i) :
    isRequest i = false := by
  obtain ⟨op, ps, -, -, hc⟩ := decode_ctl_cases h
  exact commandOf_isCommand hc

/-! ### SEQ's turn -/

/-- What a completing micro-op does, with what it was checked for (R126-R137, R163). -/
inductive MicroDone (s : State) : MicroOp → State → Prop where
  | swrst : MicroDone s .swrst { s with pctrl := { s.pctrl with swrst := true }, swrstBusy := true }
  | waitSwrst (h : s.swrstBusy = false) : MicroDone s .waitSwrst s
  | program : MicroDone s .program { s with
      pctrl := { s.pctrl with
        master := true, cpol := false, cpha := false, dord := dordBit s.params.dord, dipo := s.params.dipo,
        rxen := true, enable := true }
      pbaud := programmedBaud s.params
      sck := .low }
  | setDc (m : Mode) (he : s.pctrl.enable = true) (hc : s.csN = true) : MicroDone s (.setDc m) { s with dc := some m }
  | openFrame (m : Mode) (he : s.pctrl.enable = true) (hc : s.csN = true) (hd : s.dc = some m) :
      MicroDone s (.select true) { s with csN := false, trace := s.trace ++ [.frameOpen m] }
  | closeFrame (he : s.pctrl.enable = true) (hc : s.csN = false) (ht : s.txbuf = none) (hs : s.shift = none) :
      MicroDone s (.select false) { s with csN := true, trace := s.trace ++ [.frameClose] }
  | send (v : Byte) (he : s.pctrl.enable = true) (hc : s.csN = false) (hd : s.dre = true) :
      MicroDone s (.send v) { s with txbuf := some v, dre := false, txc := false }
  | waitIdle (he : s.pctrl.enable = true) (ht : s.txc = true) : MicroDone s .waitIdle s
  | state (t : SeqState) : MicroDone s (.state t) { s with seqState := t }

/-- Everything a micro-op that completes can do. -/
theorem microStep_done {u : MicroOp} {s s' : State} (h : microStep u s = .done s') : MicroDone s u s' := by
  cases u with
  | swrst => injection h with h; subst h; exact .swrst
  | waitSwrst =>
    simp only [microStep, microWaitSwrst] at h
    split_ifs at h with hb
    injection h with h; subst h; exact .waitSwrst (by simpa using hb)
  | program => injection h with h; subst h; exact .program
  | setDc m =>
    simp only [microStep, microSetDc] at h
    split_ifs at h with he hc
    injection h with h; subst h; exact .setDc m (by simpa using he) (by simpa using hc)
  | select a =>
    cases a with
    | true =>
      simp only [microStep, microOpenFrame] at h
      split_ifs at h with he hc
      split at h
      · simp at h
      · next m hd => injection h with h; subst h; exact .openFrame m (by simpa using he) (by simpa using hc) hd
    | false =>
      simp only [microStep, microCloseFrame] at h
      split_ifs at h with he hc hf
      injection h with h; subst h
      simp only [Bool.or_eq_true, Option.isSome_iff_ne_none, not_or, not_not, ne_eq] at hf
      exact .closeFrame (by simpa using he) (by simpa using hc) hf.1 hf.2
  | send v =>
    simp only [microStep, microSend] at h
    split_ifs at h with he hc hd
    injection h with h; subst h; exact .send v (by simpa using he) (by simpa using hc) (by simpa using hd)
  | waitIdle =>
    simp only [microStep, microWaitIdle] at h
    split_ifs at h with he ht
    injection h with h; subst h; exact .waitIdle (by simpa using he) (by simpa using ht)
  | state t => injection h with h; subst h; exact .state t

/-- The three micro-ops that hold, and until when (R127, R136, R137). -/
theorem microStep_hold_iff {u : MicroOp} {s : State} : microStep u s = .hold ↔
    (u = .waitSwrst ∧ s.swrstBusy = true) ∨
      ((∃ v, u = .send v) ∧ s.pctrl.enable = true ∧ s.csN = false ∧ s.dre = false) ∨
      (u = .waitIdle ∧ s.pctrl.enable = true ∧ s.txc = false) := by
  cases u with
  | swrst => simp [microStep, microSwrst]
  | waitSwrst => simp [microStep, microWaitSwrst]
  | program => simp [microStep, microProgram]
  | setDc m => simp only [microStep, microSetDc]; split_ifs <;> simp
  | select a =>
    cases a with
    | true => simp only [microStep, microOpenFrame]; split_ifs <;> (try split) <;> simp
    | false => simp only [microStep, microCloseFrame]; split_ifs <;> simp
  | send v => simp only [microStep, microSend]; split_ifs <;> simp_all
  | waitIdle => simp only [microStep, microWaitIdle]; split_ifs <;> simp_all
  | state t => simp [microStep, microState]

/-- SEQ holds iff its head micro-op is tried and holds (R121). -/
theorem seqHolding_iff {s : State} :
    seqHolding s = true ↔ s.quiescent = false ∧ ∃ u rest, s.q = u :: rest ∧ microStep u s = .hold := by
  unfold seqHolding
  rcases hq : s.q with _ | ⟨u, rest⟩
  · simp
  · cases hm : microStep u s <;> simp [hm]

/-- SEQ has an enabled step iff a micro-op is tried and does not hold (R121). -/
theorem seqEnabled_iff {s : State} :
    turnEnabled .seq s = true ↔ s.quiescent = false ∧ ∃ u rest, s.q = u :: rest ∧ microStep u s ≠ .hold := by
  have h : turnEnabled .seq s = true ↔ s.q ≠ [] ∧ s.quiescent = false ∧ ¬seqHolding s = true := by
    simp [turnEnabled, seqEnabled, and_assoc]
  rw [h, seqHolding_iff]
  rcases hq : s.q with _ | ⟨u, rest⟩
  · simp
  · cases hn : s.quiescent <;> simp

/-- Two states that agree on what SEQ's enabling reads agree on it. -/
theorem turnEnabled_seq_congr {s t : State} (hq : t.q = s.q) (hn : t.quiescent = s.quiescent)
    (hw : t.swrstBusy = s.swrstBusy) (he : t.pctrl.enable = s.pctrl.enable) (hc : t.csN = s.csN) (hd : t.dre = s.dre)
    (ht : t.txc = s.txc) : turnEnabled .seq t = turnEnabled .seq s := by
  have h : turnEnabled .seq t = true ↔ turnEnabled .seq s = true := by
    simp only [seqEnabled_iff, hq, hn, ne_eq, microStep_hold_iff, hw, he, hc, hd, ht]
  cases ht : turnEnabled .seq t <;> cases hs : turnEnabled .seq s <;> simp_all

/-- Which turns are enabled does not depend on the schedule. -/
theorem turnEnabled_beginStep (t : Turn) (s : State) : turnEnabled t s.beginStep = turnEnabled t s := by
  cases t <;> first | rfl | exact turnEnabled_seq_congr rfl rfl rfl rfl rfl rfl rfl

/-- What SEQ's turn can do. -/
inductive SeqMove (s : State) : State → Prop where
  | stay (h : turnEnabled .seq s = false) : SeqMove s s
  | done (u : MicroOp) (rest : List MicroOp) (s' : State) (hq : s.q = u :: rest) (hn : s.quiescent = false)
      (hd : MicroDone s u s') : SeqMove s (s'.retire rest)
  | raise (u : MicroOp) (rest : List MicroOp) (c : FaultCause) (hq : s.q = u :: rest) (hn : s.quiescent = false)
      (hr : microStep u s = .raise c) : SeqMove s (s.raise c)

/-- Everything SEQ's turn can do (R121). -/
theorem seqTurn_move (s : State) : SeqMove s (seqTurn s) := by
  have off : ∀ {v : State}, ¬(turnEnabled .seq s = true) → v = s → SeqMove s v := by
    rintro _ h rfl; exact .stay (by simpa using h)
  unfold seqTurn
  split
  · next hq => exact off (by simp [seqEnabled_iff, hq]) rfl
  · next u rest hq =>
    split_ifs with hn
    · exact off (by simp [seqEnabled_iff, hn]) rfl
    · have hn' : s.quiescent = false := by simpa using hn
      split
      · next s' hd => exact .done u rest s' hq hn' (microStep_done hd)
      · next hh => exact off (by simp [seqEnabled_iff, hq, hh]) rfl
      · next c hr => exact .raise u rest c hq hn' hr

/-! ### The host's turn -/

/-- What the host's turn can do, once its access is taken off. -/
inductive HostMove (s : State) : State → Prop where
  | stay : HostMove s s
  | reply (w : Word) : HostMove s (s.reply w)
  | accept (i : Instr) (l : List MicroOp) (hn : s.quiescent = false) (hb : s.busy = false)
      (he : expand i s = some (.ops l)) : HostMove s { s with q := l, busy := decide (l ≠ []) }
  | raise (c : FaultCause) (hc : s.quiescent = true → c = .illegalAccess) : HostMove s (s.raise c)
  | raiseReply (w : Word) : HostMove s ((s.raise .illegalAccess).reply w)
  | refuse (hn : s.quiescent = false) (hb : s.busy = false) : HostMove s s.refuse

theorem acceptRequest_move {i : Instr} {e : Expansion} (s : State) (he : expand i s = some e) :
    HostMove s (acceptRequest e s) := by
  rcases acceptRequest_cases e s with ⟨-, h⟩ | ⟨hn, -, h⟩ | ⟨hn, hb, ⟨l, rfl, h⟩ | ⟨c, rfl, h⟩ | ⟨rfl, h⟩⟩ <;> rw [h]
  · exact .stay
  · exact .raise _ (by simp [hn])
  · exact .accept i l hn hb he
  · exact .raise c (by simp [hn])
  · exact .refuse hn hb

theorem rejectWord_move (s : State) : HostMove s (rejectWord s) := by
  unfold rejectWord
  rcases acceptRequest_cases (.fault .illegalRequest) s with
    ⟨-, h⟩ | ⟨hn, -, h⟩ | ⟨hn, hb, ⟨l, hl, -⟩ | ⟨c, -, h⟩ | ⟨hr, -⟩⟩
  · rw [h]; exact .stay
  · rw [h]; exact .raise _ (by simp [hn])
  · simp at hl
  · rw [h]; exact .raise c (by simp [hn])
  · simp at hr

/-- Everything a host access can do (R61, R62, R160). -/
theorem hostAccess_move (a : HostAccess) (s : State) : ∃ t, hostAccess a s = .next t ∧ HostMove s t := by
  unfold hostAccess
  split_ifs
  · split
    · next w _ =>
      unfold writeReq
      split
      · next i hi =>
        obtain ⟨e, he, hx⟩ := exec_request (decodeReq_isRequest hi) s
        exact ⟨_, hx, acceptRequest_move s he⟩
      · exact ⟨_, rfl, rejectWord_move s⟩
    · exact ⟨_, rfl, .reply _⟩
  · split
    · exact ⟨_, rfl, .raise _ fun _ => rfl⟩
    · exact ⟨_, rfl, .raiseReply _⟩

/-- A legal write is a write of a request (R61). -/
theorem HostAccess.writesRequest_of_legal {a : HostAccess} {v : Word} (hl : a.legal = true) (ho : a.op = .write v) :
    a.writesRequest = true := by
  have off : ∀ o : BitVec 4, o.extractLsb' 0 2 = 0 → o ≠ 0xC → o ≠ 0x4 → o ≠ 0x8 → o = 0 := by decide
  simp only [HostAccess.legal, ho, Bool.and_eq_true, Bool.or_eq_true, beq_iff_eq, bne_iff_ne, reduceCtorEq, false_or] at hl
  obtain ⟨⟨⟨hw, h0⟩, hc⟩, h4, h8⟩ := hl
  simp [HostAccess.writesRequest, hw, ho, off _ h0 hc h4 h8]

/-- Everything an access that writes no request can do: a reply, ILLEGAL_ACCESS, or both (R61, R62). -/
theorem hostAccess_noRequest {a : HostAccess} (ha : a.writesRequest = false) (s : State) :
    ∃ t, hostAccess a s = .next t ∧ ((∃ w, t = s.reply w) ∨ t = s.raise .illegalAccess ∨
      ∃ w, t = (s.raise .illegalAccess).reply w) := by
  unfold hostAccess
  split_ifs with hl
  · split
    · next v ho => rw [HostAccess.writesRequest_of_legal hl ho] at ha; simp at ha
    · exact ⟨_, rfl, .inl ⟨_, rfl⟩⟩
  · split
    · exact ⟨_, rfl, .inr (.inl rfl)⟩
    · exact ⟨_, rfl, .inr (.inr ⟨_, rfl⟩)⟩

/-- Everything the host's turn can do: nothing where it has no access, else its first access. -/
theorem hostTurn_move (s : State) :
    (s.hostIn = [] ∧ hostTurn s = .next s) ∨
      ∃ a rest t, s.hostIn = a :: rest ∧ hostTurn s = .next t ∧ HostMove { s with hostIn := rest } t := by
  unfold hostTurn
  split
  · next h => exact .inl ⟨h, rfl⟩
  · next a rest h =>
    obtain ⟨t, ht, hm⟩ := hostAccess_move a { s with hostIn := rest }
    exact .inr ⟨a, rest, t, h, ht, hm⟩

/-! ### SHIFT's turns -/

theorem shReset_cases (s : State) :
    (s.swrstBusy = false ∧ shReset s = s) ∨ (s.swrstBusy = true ∧ shReset s = { s with
      pctrl := .zero, pbaud := 0, dre := true, txc := false, rxc := false, txbuf := none, shift := none, rxbuf := none,
      sck := .z, swrstBusy := false }) := by
  unfold shReset
  cases h : s.swrstBusy <;> simp

theorem shLoad_cases (s : State) :
    (turnEnabled .shLoad s = false ∧ shLoad s = s) ∨ ∃ v, s.pctrl.enable = true ∧ s.swrstBusy = false ∧ s.shift = none ∧
      s.txbuf = some v ∧ shLoad s = { s with shift := some ⟨v, 8⟩, txbuf := none, dre := true } := by
  unfold shLoad turnEnabled
  rcases ht : s.txbuf with _ | v <;> rcases hs : s.shift with _ | r <;>
    rcases he : s.pctrl.enable with _ | _ <;> rcases hb : s.swrstBusy with _ | _ <;>
    simp [ht, hs, he, hb]

theorem shBit_cases (s : State) :
    (turnEnabled .shBit s = false ∧ shBit s = s) ∨ ∃ r, s.shift = some r ∧ r.left ≠ 0 ∧ shBit s = { s with
      mosi := .bit (r.value.getLsbD (bitIndex s.pctrl.dord r.left.val)), sck := .low, shift := some r.pop } := by
  unfold shBit turnEnabled
  rcases hs : s.shift with _ | r
  · simp [hs]
  · by_cases h : r.left = 0 <;> simp [hs, h]

/-- The panel after a byte event (R70). -/
def panelAfter (p : Params) (pn : Panel) (m : Mode) (v : Byte) : Panel :=
  match m with
  | .dat => pn.dataWrite v
  | .cmd =>
    match pn.collect p v with
    | (pn', none) => pn'
    | (pn', some bs) =>
      match decode p (.ctl bs) with
      | .ok i => commandEffect i pn'
      | .error _ => pn'

/-- Everything a byte event does at the panel: the panel changes, and nothing else. -/
theorem panelReceive_eq (m : Mode) (v : Byte) (s : State) :
    panelReceive m v s = .next { s with panel := panelAfter s.params s.panel m v } := by
  cases m with
  | dat => rfl
  | cmd =>
    simp only [panelReceive, panelAfter]
    rcases hc : s.panel.collect s.params v with ⟨pn, _ | bs⟩
    · rfl
    · cases hd : decode s.params (.ctl bs) with
      | ok i => simpa only [hd] using exec_command (decode_ctl_isCommand hd) { s with panel := pn }
      | error e => simp only [hd]

/-- What SH_DONE's turn can do. -/
inductive DoneMove (s : State) : State → Prop where
  | stay (h : turnEnabled .shDone s = false) : DoneMove s s
  | done (r : ShiftReg) (m : Mode) (hs : s.shift = some r) (hl : r.left = 0) (hd : s.dc = some m) :
      DoneMove s { shDone m r.value s with panel := panelAfter s.params s.panel m r.value }

/-- Everything SH_DONE's turn can do; it stops only where a byte completes with the mode line unwritten. -/
theorem shDoneTurn_cases (s : State) :
    (∃ t, shDoneTurn s = .next t ∧ DoneMove s t) ∨
      (shDoneTurn s = .fault .byteWithModeUnwritten ∧ s.dc = none ∧ s.shift ≠ none) := by
  unfold shDoneTurn
  rcases hs : s.shift with _ | r
  · exact .inl ⟨s, rfl, .stay (by simp [turnEnabled, hs])⟩
  · by_cases hl : r.left = 0
    · rcases hd : s.dc with _ | m
      · exact .inr ⟨by simp [hl], rfl, by simp⟩
      · refine .inl ⟨{ shDone m r.value s with panel := panelAfter s.params s.panel m r.value }, ?_, .done r m hs hl hd⟩
        simp only [hl, if_true]
        rw [panelReceive_eq]
        rfl
    · exact .inl ⟨s, by simp [hl], .stay (by simp [turnEnabled, hs, hl])⟩

/-! ### A step -/

/-- What a step can do, by the turn that is taken, on the state with the turn taken off. -/
inductive Move (s : State) : Turn → State → Prop where
  | hostIdle (h : s.hostIn = []) : Move s .host s
  | host (a : HostAccess) (rest : List HostAccess) (t : State) (h : s.hostIn = a :: rest)
      (hm : HostMove { s with hostIn := rest } t) : Move s .host t
  | seq (t : State) (hm : SeqMove s t) : Move s .seq t
  | shReset : Move s .shReset (shReset s)
  | shLoad : Move s .shLoad (shLoad s)
  | shBit : Move s .shBit (shBit s)
  | shDone (t : State) (hm : DoneMove s t) : Move s .shDone t

/-- Everything a step that answers a next state can do. -/
theorem step_move {s t : State} (h : step s = .next t) : ∃ tn, s.nextTurn = tn ∧ Move s.beginStep tn t := by
  unfold step at h
  cases hn : s.nextTurn <;> rw [hn] at h <;> simp only [runTurn] at h <;> refine ⟨_, rfl, ?_⟩
  · rcases hostTurn_move s.beginStep with ⟨h0, h1⟩ | ⟨a, rest, u, h0, h1, h2⟩
    · rw [h1] at h; injection h with h; subst h; exact .hostIdle h0
    · rw [h1] at h; injection h with h; subst h; exact .host a rest u h0 h2
  · injection h with h; subst h; exact .seq _ (seqTurn_move _)
  · injection h with h; subst h; exact .shReset
  · injection h with h; subst h; exact .shLoad
  · injection h with h; subst h; exact .shBit
  · rcases shDoneTurn_cases s.beginStep with ⟨u, h1, h2⟩ | ⟨h1, -, -⟩
    · rw [h1] at h; injection h with h; subst h; exact .shDone u h2
    · rw [h1] at h; simp at h

/-- A step stops only where SH_DONE completes a byte with the mode line unwritten; it never refuses. -/
theorem step_total (s : State) :
    (∃ t, step s = .next t) ∨ (step s = .fault .byteWithModeUnwritten ∧ s.dc = none ∧ s.shift ≠ none) := by
  unfold step
  cases hn : s.nextTurn <;> simp only [runTurn]
  · rcases hostTurn_move s.beginStep with ⟨-, h1⟩ | ⟨_, _, u, -, h1, -⟩
    · exact .inl ⟨_, h1⟩
    · exact .inl ⟨u, h1⟩
  · exact .inl ⟨_, rfl⟩
  · exact .inl ⟨_, rfl⟩
  · exact .inl ⟨_, rfl⟩
  · exact .inl ⟨_, rfl⟩
  · rcases shDoneTurn_cases s.beginStep with ⟨u, h1, -⟩ | ⟨h1, h2, h3⟩
    · exact .inl ⟨u, h1⟩
    · exact .inr ⟨h1, h2, h3⟩

/-! ### Runs -/

theorem core_run_zero {s t : State} : core.run 0 s = .next t ↔ s = t := by
  show (Host.Outcome.next s : Host.Outcome State Fault Refusal) = .next t ↔ s = t
  simp

theorem core_run_succ {n : Nat} {s t : State} :
    core.run (n + 1) s = .next t ↔ ∃ u, step s = .next u ∧ core.run n u = .next t := by
  cases hs : step s with
  | next u =>
    have h : core.run (n + 1) s = core.run n u := by simp only [Host.Core.run, show core.step s = .next u from hs]
    simp [h]
  | fault r =>
    have h : core.run (n + 1) s = .fault r := by simp only [Host.Core.run, show core.step s = .fault r from hs]
    simp [h]
  | refused r =>
    have h : core.run (n + 1) s = .refused r := by
      simp only [Host.Core.run, show core.step s = .refused r from hs]
    simp [h]

/-- What every step keeps, every run keeps. -/
theorem core_run_induct {P : State → Prop} (hP : ∀ s t, P s → step s = .next t → P t) :
    ∀ {n : Nat} {s t : State}, P s → core.run n s = .next t → P t
  | 0, _, _, h, e => core_run_zero.1 e ▸ h
  | _ + 1, _, _, h, e =>
    let ⟨_, hu, e'⟩ := core_run_succ.1 e
    core_run_induct hP (hP _ _ h hu) e'

end Sys2Proof.Machine
end

