-- ==== Sys2Proof/Laws/Progress.lean ====
section
/-! SUPPORT. What a run does in the long term: a turn with no enabled step changes nothing, and a turn with one leaves less
to do, by a measure that cannot go down for ever. -/

namespace Sys2Proof.Machine

theorem seqTurn_idle {s : State} (h : turnEnabled .seq s = false) : seqTurn s = s := by
  unfold seqTurn
  split
  · rfl
  · next u rest hq =>
    split_ifs with hn
    · rfl
    · split
      · next hd =>
        have := seqEnabled_iff.2 ⟨by simpa using hn, u, rest, hq, by simp [hd]⟩
        simp [h] at this
      · rfl
      · next hd =>
        have := seqEnabled_iff.2 ⟨by simpa using hn, u, rest, hq, by simp [hd]⟩
        simp [h] at this

/-- The turn of an agent with no enabled step changes nothing. -/
theorem runTurn_idle {tn : Turn} {s : State} (h : turnEnabled tn s = false) : runTurn tn s = .next s := by
  cases tn <;> simp only [runTurn]
  · have hh : s.hostIn = [] := by simpa [turnEnabled] using h
    simp [hostTurn, hh]
  · rw [seqTurn_idle h]
  · have hb : s.swrstBusy = false := h
    simp [shReset, hb]
  · rcases shLoad_cases s with ⟨-, e⟩ | ⟨v, h1, h2, h3, h4, -⟩
    · rw [e]
    · simp [turnEnabled, h1, h2, h3, h4] at h
  · rcases shBit_cases s with ⟨-, e⟩ | ⟨r, h1, h2, -⟩
    · rw [e]
    · simp [turnEnabled, h1, h2] at h
  · rcases hs : s.shift with _ | r
    · simp [shDoneTurn, hs]
    · have hl : r.left ≠ 0 := by simpa [turnEnabled, hs] using h
      simp [shDoneTurn, hs, hl]

/-- A turn with no enabled step only counts itself (R12). -/
theorem step_idle {s : State} (h : turnEnabled s.nextTurn s = false) : step s = .next s.beginStep :=
  runTurn_idle ((turnEnabled_beginStep _ s).trans h)

/-- The steps of SHIFT that what it holds calls for, at most. -/
def shiftWork (s : State) : Nat :=
  (if s.swrstBusy then 1 else 0) + (if s.txbuf.isSome then 10 else 0) +
    match s.shift with
    | none => 0
    | some r => r.left.val + 1

/-- What is left to do: the host's accesses, then the micro-ops, then SHIFT's steps. -/
def work (s : State) : ℕ ×ₗ ℕ ×ₗ ℕ := toLex (s.hostIn.length, toLex (s.q.length, shiftWork s))

theorem work_lt {s t : State} (h : t.hostIn.length < s.hostIn.length ∨
    (t.hostIn.length = s.hostIn.length ∧ (t.q.length < s.q.length ∨
      (t.q.length = s.q.length ∧ shiftWork t < shiftWork s)))) : work t < work s := by
  simpa [work, Prod.Lex.toLex_lt_toLex] using h

theorem HostMove.hostIn_eq {s t : State} (h : HostMove s t) : t.hostIn = s.hostIn := by cases h <;> rfl

theorem MicroDone.hostIn_eq {u : MicroOp} {s t : State} (h : MicroDone s u t) : t.hostIn = s.hostIn := by cases h <;> rfl

/-- An enabled step of SHIFT leaves it less to do, and leaves the host's accesses and the queue alone (R140-R143). -/
theorem shift_progress {s t : State} {tn : Turn} (hm : Move s tn t) (ht : tn ∈ shiftTurns)
    (he : turnEnabled tn s = true) : t.hostIn = s.hostIn ∧ t.q = s.q ∧ shiftWork t < shiftWork s := by
  cases hm with
  | hostIdle => simp [shiftTurns] at ht
  | host => simp [shiftTurns] at ht
  | seq => simp [shiftTurns] at ht
  | shReset =>
    rcases shReset_cases s with ⟨h, -⟩ | ⟨h, e⟩
    · simp [turnEnabled, h] at he
    · rw [e]
      exact ⟨rfl, rfl, by simp [shiftWork, h]⟩
  | shLoad =>
    rcases shLoad_cases s with ⟨h, -⟩ | ⟨v, -, h2, h3, h4, e⟩
    · simp [h] at he
    · rw [e]
      exact ⟨rfl, rfl, by simp [shiftWork, h2, h3, h4]⟩
  | shBit =>
    rcases shBit_cases s with ⟨h, -⟩ | ⟨r, h1, h2, e⟩
    · simp [h] at he
    · rw [e]
      have : r.left.val ≠ 0 := fun h => h2 (Fin.ext h)
      exact ⟨rfl, rfl, by simp only [shiftWork, h1, ShiftReg.pop]; omega⟩
  | shDone t hm =>
    cases hm with
    | stay h => simp [h] at he
    | done r m h1 h2 h3 => exact ⟨rfl, rfl, by simp [shiftWork, shDone, h1]; exact Nat.lt_add_of_pos_right (Nat.succ_pos _)⟩

/-- A step either finds no enabled step at its turn and only counts itself, or leaves less to do. -/
theorem step_progress {s t : State} (h : step s = .next t) :
    (turnEnabled s.nextTurn s = false ∧ t = s.beginStep) ∨ (turnEnabled s.nextTurn s = true ∧ work t < work s) := by
  rcases he : turnEnabled s.nextTurn s with _ | _
  · rw [step_idle he] at h
    injection h with h
    exact .inl ⟨rfl, h.symm⟩
  · refine .inr ⟨rfl, ?_⟩
    obtain ⟨tn, rfl, hm⟩ := step_move h
    rw [← turnEnabled_beginStep] at he
    have hw : work s.beginStep = work s := rfl
    rw [← hw]
    generalize s.beginStep = b at hm he
    generalize s.nextTurn = tn at hm he
    by_cases hs : tn ∈ shiftTurns
    · obtain ⟨h1, h2, h3⟩ := shift_progress hm hs he
      exact work_lt (.inr ⟨by rw [h1], .inr ⟨by rw [h2], h3⟩⟩)
    · cases hm with
      | hostIdle h => simp [turnEnabled, h] at he
      | host a rest t h hm => exact work_lt (.inl (by rw [hm.hostIn_eq, h]; simp))
      | seq t hm =>
        cases hm with
        | stay h => simp [h] at he
        | done u rest s' hq hn hd => exact work_lt (.inr ⟨by rw [← hd.hostIn_eq]; rfl, .inl (by rw [hq]; simp [State.retire])⟩)
        | raise u rest c hq hn hr => exact work_lt (.inr ⟨rfl, .inl (by rw [hq]; simp)⟩)
      | shReset => simp [shiftTurns] at hs
      | shLoad => simp [shiftTurns] at hs
      | shBit => simp [shiftTurns] at hs
      | shDone t hm => simp [shiftTurns] at hs

end Sys2Proof.Machine
end

