-- ==== Sys2Proof/Tests/Slice0.lean ====
section
/-! SUPPORT. Tests whose expected results are the vectors of spec/95_test_vectors.md or worked by hand from a numbered rule,
and for every statement with hypotheses a witness that meets them. -/

namespace Sys2Proof.Machine

/-! ### Small states -/

/-- A parameter set with a 48 MHz clock (V-BAUD-1). -/
def testParams : Params where
  initTable := Config.defaultInitTable
  addrModeCmd := [0x20, 0x02]
  displayOnCmd := [0xAF]
  dord := .msbFirst
  dipo := 1
  fRef := 48000000
  hostBase := 0x40000000
  periphLive := true

/-- A panel with its cursor at page 3, column 40. -/
def testPanel : Panel := ⟨[], 3, 40, 0, 127, .idle⟩

/-- Block reset. -/
def atReset : State := { State.ofParams testParams with panel := testPanel }

/-- The end of V-TR-1. -/
def poweredOff : State :=
  { atReset with seqState := .poweredOff, pctrl := .programmed testParams, pbaud := 2, sck := .low }

/-- The engine's end of V-SEQ-1. -/
def ready : State := { poweredOff with seqState := .ready, dc := some .cmd, txc := true }

/-- A frame open with no byte sent (V-TR-6). -/
def frameOpened (m : Mode) : State := { poweredOff with dc := some m, csN := false, trace := [.frameOpen m] }

/-- A state with a queue, and SEQ's turn next. -/
def withQueue (s : State) (l : List MicroOp) : State := { s with q := l, busy := true, turns := [.seq] }

/-- A state with one host access, and the host's turn next. -/
def withAccess (s : State) (off : BitVec 4) (width : Nat) (op : HostOp) : State :=
  { s with hostIn := [⟨off, width, op⟩], turns := [.host] }

/-- A state with a byte in the shift register. -/
def withShift (s : State) (v : Byte) (left : Fin 9) (turn : Turn) : State :=
  { s with shift := some ⟨v, left⟩, turns := [turn] }

/-- A field after an outcome that is a next state. -/
def field {α : Type} (f : State → α) : Host.Outcome State Fault Refusal → Option α
  | .next s => some (f s)
  | _ => none

/-- The request a word decodes to, or none. -/
def asRequest (w : Word) : Option Instr :=
  match decodeReq w with
  | .ok i => some i
  | .error _ => none

/-- The command a byte string decodes to under the default tables, or none. -/
def asCommand (bs : List Byte) : Option Instr :=
  match decode testParams (.ctl bs) with
  | .ok i => some i
  | .error _ => none

/-! ### Decoding: a word of every constructor, from R91, R97, R98 and V-DEC -/

theorem test_decode_bit_by_bit :
    asRequest 0b00000000000001110000111100001001#32 = some (.setAddress 15 7) := by decide
theorem test_decode_command_bit_by_bit : asCommand [0b10110101#8] = some (.setPage 5) := by decide
theorem test_decode_configure : asRequest 0x00000001 = some .configure := by decide
theorem test_decode_select :
    asRequest 0x00000002 = some (.select false) ∧ asRequest 0x00000102 = some (.select true) := by decide
theorem test_decode_setMode :
    asRequest 0x00000003 = some (.setMode .cmd) ∧ asRequest 0x00000103 = some (.setMode .dat) := by decide
theorem test_decode_sendByte :
    asRequest 0x00000004 = some (.sendByte 0) ∧ asRequest 0x0000FF04 = some (.sendByte 0xFF) := by decide
theorem test_decode_waitIdle : asRequest 0x00000005 = some .waitIdle := by decide
theorem test_decode_init : asRequest 0x00000008 = some .init := by decide
theorem test_decode_setAddress :
    asRequest 0x00030209 = some (.setAddress 2 3) ∧ asRequest 0x00FF1009 = some (.setAddress 16 255) := by decide
theorem test_decode_clear :
    asRequest 0x0000000A = some (.clear 0) ∧ asRequest 0x0000FF0A = some (.clear 0xFF) := by decide
theorem test_decode_putChar :
    asRequest 0x0000800B = some (.putChar 0x80) ∧ asRequest 0x0000480B = some (.putChar 0x48) := by decide
theorem test_decode_test :
    asRequest 0x0000000C = some (.test 0) ∧ asRequest 0x0000050C = some (.test 5) := by decide
theorem test_decode_displayOff : asCommand [0xAE] = some .displayOff := by decide
theorem test_decode_setClockDiv : asCommand [0xD5, 0x80] = some (.setClockDiv 0x80) := by decide
theorem test_decode_setMultiplex : asCommand [0xA8, 0x3F] = some (.setMultiplex 0x3F) := by decide
theorem test_decode_setDisplayOffset : asCommand [0xD3, 0x00] = some (.setDisplayOffset 0) := by decide
theorem test_decode_setStartLine :
    asCommand [0x40] = some (.setStartLine 0) ∧ asCommand [0x7F] = some (.setStartLine 63) := by decide
theorem test_decode_chargePump : asCommand [0x8D, 0x14] = some (.chargePump 0x14) := by decide
theorem test_decode_segmentRemap : asCommand [0xA1] = some .segmentRemap := by decide
theorem test_decode_comScanDir : asCommand [0xC8] = some .comScanDir := by decide
theorem test_decode_setComPins : asCommand [0xDA, 0x12] = some (.setComPins 0x12) := by decide
theorem test_decode_setContrast : asCommand [0x81, 0xCF] = some (.setContrast 0xCF) := by decide
theorem test_decode_setPrecharge : asCommand [0xD9, 0xF1] = some (.setPrecharge 0xF1) := by decide
theorem test_decode_setVcomh : asCommand [0xDB, 0x40] = some (.setVcomh 0x40) := by decide
theorem test_decode_entireDisplayResume : asCommand [0xA4] = some .entireDisplayResume := by decide
theorem test_decode_setAddrMode : asCommand [0x20, 0x02] = some (.setAddrMode [0x02]) := by decide
theorem test_decode_displayOn : asCommand [0xAF] = some (.displayOn []) := by decide
theorem test_decode_setPage :
    asCommand [0xB0] = some (.setPage 0) ∧ asCommand [0xB7] = some (.setPage 7) := by decide
theorem test_decode_setColumnRange : asCommand [0x21, 0x10, 0x7F] = some (.setColumnRange 0x10 0x7F) := by decide

/-- V-DEC-1, 14, 15, 25, 30: an unassigned OP. -/
theorem test_decode_unassigned : ([0x00000000#32, 0x00000006#32, 0x00000007#32, 0x0000000D#32, 0x0000000E#32,
    0x0000000F#32, 0xFFFFFFFF#32].all
    fun w => asRequest w == none) = true := by decide

/-- V-DEC-3, 6, 9, 12, 17, 23: a must-be-zero operand bit set. -/
theorem test_decode_operand_bits : ([0x00000101#32, 0x00000202#32, 0x00008003#32, 0x00010004#32, 0x00000108#32,
    0x0001410B#32].all
    fun w => asRequest w == none) = true := by decide

/-- V-DEC-26 to 29: a reserved bit set. -/
theorem test_decode_reserved_bits : ([0x00000011#32, 0x01000001#32, 0x80000009#32, 0x12345678#32].all
    fun w => asRequest w == none) = true := by decide

/-- X6 and R72: an opcode the block never sends, a command cut short, and bytes left over. -/
theorem test_decode_no_command : asCommand [0xE3] = none ∧ asCommand [0x21, 0x00] = none ∧ asCommand [] = none ∧
    asCommand [0xAE, 0xAF] = none := by decide

/-- R101: a string is one PUT_CHAR a byte, before the first 0x00. -/
theorem test_putString : Instr.putString [0x48, 0x49, 0x00, 0x41] = [.putChar 0x48, .putChar 0x49] := by decide
theorem test_setCursor : Instr.setCursor 2 3 = .setAddress 2 3 := by decide

/-! ### WellFormed: each check refuses an ill-formed term (R200, R124, R7) -/

theorem test_params_wf : testParams.wf = true := by decide
theorem test_params_twelve_commands : { testParams with initTable := testParams.initTable.tail }.wf = false := by decide
theorem test_params_no_addr_mode : { testParams with addrModeCmd := [] }.wf = false := by decide
theorem test_params_no_display_on : { testParams with displayOnCmd := [] }.wf = false := by decide
theorem test_params_same_opcode : { testParams with displayOnCmd := [0xAE] }.wf = false := by decide
theorem test_params_page_opcode : { testParams with displayOnCmd := [0xB7] }.wf = false := by decide
theorem test_params_column_opcode : { testParams with addrModeCmd := [0x21, 0x02] }.wf = false := by decide
theorem test_params_no_clock : { testParams with fRef := 0 }.wf = false := by decide
/-- V-BAUD-9. -/
theorem test_params_fast_clock : { testParams with fRef := 5130000000 }.wf = false := by decide
theorem test_params_unaligned : { testParams with hostBase := 2 }.wf = false := by decide
theorem test_addrMode_length :
    Instr.wf testParams (.setAddrMode [0x02]) = true ∧ Instr.wf testParams (.setAddrMode []) = false := by decide
theorem test_displayOn_length :
    Instr.wf testParams (.displayOn []) = true ∧ Instr.wf testParams (.displayOn [0]) = false := by decide
/-- Under a table whose start-line opcode is 0x80, 0x81 is the contrast command's. -/
theorem test_startLine_collision :
    let p := { testParams with initTable := testParams.initTable.set 4 [0x80] }
    p.wf = true ∧ Instr.wf p (.setStartLine 0) = true ∧ Instr.wf p (.setStartLine 1) = false := by decide
/-- Under a table whose start-line opcode is 0x80, line 0x38 would be written 0xB8, and line 0x30 the page select 0xB0. -/
theorem test_startLine_page :
    let p := { testParams with initTable := testParams.initTable.set 4 [0x80] }
    Instr.wf p (.setStartLine 0x38) = true ∧ Instr.wf p (.setStartLine 0x30) = false := by decide
/-- Under a table whose start-line opcode is 0x00, line 0x21 would be written as the column-range opcode. -/
theorem test_startLine_column :
    Instr.wf { testParams with initTable := testParams.initTable.set 4 [0x00] } (.setStartLine 0x21) = false := by decide

/-! ### Requests: one instruction each -/

/-- V-TR-1, V-TR-11. -/
theorem test_exec_configure :
    field State.q (exec .configure atReset) = some [.swrst, .waitSwrst, .program, .state .poweredOff] ∧
      field State.fault (exec .configure poweredOff) = some 0x10 := by decide
theorem test_exec_select : field State.q (exec (.select true) atReset) = some [.select true] := by decide
theorem test_exec_setMode : field State.q (exec (.setMode .dat) atReset) = some [.setDc .dat] := by decide
theorem test_exec_sendByte : field State.q (exec (.sendByte 0xAE) atReset) = some [.send 0xAE] := by decide
theorem test_exec_waitIdle : field State.q (exec .waitIdle atReset) = some [.waitIdle] := by decide
/-- V-SEQ-1, V-SEQ-2: 1290 and 1286 micro-ops. -/
theorem test_exec_init :
    field (fun s => s.q.length) (exec .init atReset) = some 1290 ∧
      field (fun s => s.q.length) (exec .init poweredOff) = some 1286 := by decide +kernel
/-- V-SEQ-2a. -/
theorem test_exec_reinit : field State.fault (exec .init ready) = some 0x20 := by decide
/-- V-SEQ-4b. -/
theorem test_exec_setAddress : field State.q (exec (.setAddress 15 7) ready) = some
    [.setDc .cmd, .select true, .send 0x20, .send 0x02, .waitIdle, .select false,
     .setDc .cmd, .select true, .send 0xB7, .waitIdle, .select false,
     .setDc .cmd, .select true, .send 0x21, .send 0x78, .send 0x7F, .waitIdle, .select false] := by decide
/-- V-SEQ-5a, V-SEQ-5b, V-PRI-1. -/
theorem test_exec_setAddress_faults :
    field State.fault (exec (.setAddress 16 0) ready) = some 0x80 ∧
      field State.fault (exec (.setAddress 0 8) ready) = some 0x80 ∧
      field State.fault (exec (.setAddress 20 9) atReset) = some 0x40 := by decide
/-- V-CLR-3: two pages, 4 frames and 128 + 6 bytes each, 4 micro-ops a frame besides. -/
theorem test_exec_clear : field (fun s => s.q.length) (exec (.clear 0x05) ready) = some (2 * (16 + 134)) := by decide +kernel
/-- V-CLR-1, V-CLR-7. -/
theorem test_exec_clear_corners :
    field State.busy (exec (.clear 0) ready) = some false ∧
      field State.fault (exec (.clear 0xFF) poweredOff) = some 0x40 := by decide
/-- V-PC-13: 'H' reads table entry 40, 0x7E entry 94. -/
theorem test_exec_putChar :
    field (fun s => s.q[2]?) (exec (.putChar 0x48) ready) = some (some (.send (Config.glyph 40 0))) ∧
      field (fun s => s.q[9]?) (exec (.putChar 0x7E) ready) = some (some (.send (Config.glyph 94 7))) :=
  ⟨rfl, rfl⟩
/-- V-PC-4, 5, 6, 8, 10, 11. -/
theorem test_exec_putChar_corners :
    field State.fault (exec (.putChar 0x7F) ready) = some 0x100 ∧
      field State.fault (exec (.putChar 0x1F) ready) = some 0x100 ∧
      field State.fault (exec (.putChar 0) ready) = some 0x100 ∧
      field (fun s => (s.fault, s.q)) (exec (.putChar 0x80) ready) = some (0, []) ∧
      field (fun s => (s.fault, s.q)) (exec (.putChar 0xFF) ready) = some (0, []) ∧
      field State.fault (exec (.putChar 0x85) poweredOff) = some 0x40 := by decide
/-- V-TST-1, V-TST-2. -/
theorem test_exec_test :
    field (fun s => (s.refused, s.fault)) (exec (.test 0) atReset) = some (true, 0) ∧
      field (fun s => (s.refused, s.fault)) (exec (.test 0) { atReset with busy := true, q := [.waitIdle] }) =
        some (false, 0x4) := by decide

/-! ### Controller commands: one step at the panel -/

/-- V-PNL-1, V-PNL-2: the window and the column, cut to seven bits. -/
theorem test_exec_setColumnRange :
    field (fun s => (s.panel.winStart, s.panel.winEnd, s.panel.col, s.panel.page))
        (exec (.setColumnRange 0x10 0x7F) ready) = some (16, 127, 16, 3) ∧
      field (fun s => (s.panel.winStart, s.panel.winEnd, s.panel.col)) (exec (.setColumnRange 0x90 0xFF) ready) =
        some (0x10, 0x7F, 16) := by decide
/-- V-PNL-5. -/
theorem test_exec_setPage : field (fun s => (s.panel.page, s.panel.col)) (exec (.setPage 5) ready) = some (5, 40) := by
  decide
/-- V-PNL-10, V-PNL-11: a command with no effect on the cursor, the window or the RAM. -/
theorem test_exec_other_commands : ∀ i ∈ [Instr.displayOff, .setClockDiv 0x80, .setMultiplex 0x3F, .setDisplayOffset 0,
    .setStartLine 63, .chargePump 0x14, .segmentRemap, .comScanDir, .setComPins 0x12, .setContrast 0xCF,
    .setPrecharge 0xF1, .setVcomh 0x40, .entireDisplayResume, .setAddrMode [0x02], .displayOn []],
    field State.panel (exec i ready) = some testPanel := by decide
/-- V-PNL-8: a Data byte is written at the cursor while a command is pending, and the command then completes. -/
theorem test_panel_data_in_command :
    let pn := panelFold testParams { testPanel with parse := .params 0x21 [] }
      [.byte .dat 0x55, .byte .cmd 0x00, .byte .cmd 0x7F]
    pn.ram = [(3 * 128 + 40, 0x55)] ∧ pn.winEnd = 127 ∧ pn.col = 0 ∧ pn.parse = .idle := by decide
/-- V-PNL-9: a window that ends before it starts. -/
theorem test_panel_window_inverted :
    (({ testPanel with winStart := 0x20, winEnd := 0x02, col := 0x20 } : Panel).dataWrite 0x11).col = 0x20 := by decide
/-- V-PNL-7: a raw 0x21, then SET_ADDRESS 0, 1. -/
theorem test_panel_desync :
    let pn := panelFold testParams testPanel ([0x21, 0x20, 0x02, 0xB1, 0x21, 0x00, 0x7F].map (Event.byte .cmd))
    pn.page = 1 ∧ pn.col = 0 ∧ pn.winStart = 0 ∧ pn.winEnd = 127 ∧ pn.parse = .idle := by decide
/-- R77: bit 0 of a byte is the top row of its page. -/
theorem test_pixel :
    let pn := testPanel.dataWrite 0x02
    pn.pixel 25 40 = true ∧ pn.pixel 24 40 = false := by decide
/-- R71: a write of the same place replaces, another place goes in order. -/
theorem test_memory_canonical : Memory.write (Memory.write (Memory.write [] 5 1) 3 2) 5 9 = [(3, 2), (5, 9)] := by decide

/-! ### STATUS and the host window: V-ACC, V-TR, V-SEQ -/

theorem test_status_reset : statusWord atReset = 0x00000080 := by decide
theorem test_status_poweredOff : statusWord poweredOff = 0x00000484 := by decide
theorem test_status_ready : statusWord ready = 0x000005CC := by decide
/-- A Data frame's end, with READY: 0x5EC; the resetting block of V-TR-1: 0x281; P7's hang: 0x4D5. -/
theorem test_status_others :
    statusWord { ready with dc := some .dat } = 0x000005EC ∧
      statusWord { atReset with busy := true, swrstBusy := true } = 0x00000281 ∧
      statusWord { frameOpened .cmd with busy := true } = 0x000004D5 ∧
      statusWord { ready with refused := true } = 0x000005CE := by decide
/-- V-ACC-1, V-ACC-2, V-ACC-3. -/
theorem test_reads :
    field State.replies (step (withAccess atReset 4 4 .read)) = some [0x80] ∧
      field State.replies (step (withAccess { atReset with fault := 0x42 } 8 4 .read)) = some [0x42] ∧
      field State.replies (step (withAccess ready 0 4 .read)) = some [0] := by decide
/-- V-ACC-5, 7, 8, 9, 11, 12. -/
theorem test_illegal_accesses :
    field State.fault (step (withAccess atReset 0 1 (.write 1))) = some 2 ∧
      field State.fault (step (withAccess atReset 0xC 4 .read)) = some 2 ∧
      field State.fault (step (withAccess atReset 2 4 .read)) = some 2 ∧
      field State.fault (step (withAccess { atReset with fault := 0x40 } 4 4 (.write 0))) = some 0x42 ∧
      field (fun s => (s.q, s.busy)) (step (withAccess { ready with q := [.waitIdle], busy := true } 0 1 (.write 0))) =
        some ([], false) := by decide
/-- R29: the window's last byte reaches the block, the next one does not. -/
theorem test_window :
    HostAccess.ofAddress testParams 0x4000000F 1 .read = some ⟨0xF, 1, .read⟩ ∧
      HostAccess.ofAddress testParams 0x40000010 4 .read = none := by decide

/-! ### Micro-ops, the shift register and the divisor -/

/-- V-TR-3, 5, 7, 8, 9. -/
theorem test_microop_faults :
    field State.fault (step (withQueue atReset [.setDc .cmd])) = some 0x8 ∧
      field State.fault (step (withQueue poweredOff [.select true])) = some 0x800 ∧
      field State.fault (step (withQueue (frameOpened .cmd) [.setDc .cmd])) = some 0x1000 ∧
      field State.fault (step (withQueue (frameOpened .cmd) [.select true])) = some 0x200 ∧
      field State.fault (step (withQueue poweredOff [.select false])) = some 0x400 ∧
      field State.fault (step (withQueue poweredOff [.send 0xAE])) = some 0x2000 := by decide
/-- P4 (b): a close with a byte in the transmit register. -/
theorem test_truncated_frame :
    field State.fault (step (withQueue { frameOpened .cmd with txbuf := some 0xAE, dre := false } [.select false])) =
      some 0x4000 := by decide
/-- V-TR-1: the programmed divisor at 48 MHz. -/
theorem test_program :
    field (fun s => (s.pbaud, s.pctrl, s.sck)) (step (withQueue atReset [.program])) =
      some (2, ⟨false, true, true, false, false, false, 1, true⟩, .low) := by decide
/-- V-SH-1: the first bit of 0xA5 is bit 7, the last one bit 0. -/
theorem test_shBit :
    field State.mosi (step (withShift (frameOpened .cmd) 0xA5 8 .shBit)) = some (.bit true) ∧
      field State.mosi (step (withShift (frameOpened .cmd) 0xA5 7 .shBit)) = some (.bit false) ∧
      field State.mosi (step (withShift (frameOpened .cmd) 0x01 1 .shBit)) = some (.bit true) := by decide
/-- V-SH-2: TXC stays 0 where a byte waits, and is set where none does. -/
theorem test_shDone_txc :
    field State.txc (step (withShift { frameOpened .cmd with txbuf := some 0x22, dre := false } 0x11 0 .shDone)) =
        some false ∧
      field State.txc (step (withShift (frameOpened .cmd) 0x22 0 .shDone)) = some true ∧
      field State.trace (step (withShift (frameOpened .cmd) 0x22 0 .shDone)) =
        some [.frameOpen .cmd, .byte .cmd 0x22] := by decide
/-- V-BAUD-1 to V-BAUD-9. -/
theorem test_baud : ([48, 20, 8, 40, 100, 21, 1, 5120, 5130].map fun f => baud? (f * 1000000)) =
    [some 2, some 0, some 0, some 1, some 4, some 1, some 0, some 255, none] := by decide

/-! ### A program comes to run -/

theorem test_withFetchWord_request :
    field State.q (step (atReset.withFetchWord 32 0x00000102)) = some [.select true] := by decide
theorem test_withFetchWord_command :
    field (fun s => (s.panel.page, s.trace)) (step (atReset.withFetchWord 8 0xB5)) = some (5, [.byte .cmd 0xB5]) ∧
      field (fun s => (s.panel.col, s.panel.winEnd)) (step (atReset.withFetchWord 24 0x7F1021)) = some (16, 127) := by
  decide
theorem test_launch : field State.seqState (launch testParams) = some .uninit := by decide
theorem test_blockReset :
    let s := ({ ready with fault := 0x40, refused := true } : State).blockReset
    s.fault = 0 ∧ s.refused = false ∧ s.seqState = .uninit ∧ s.panel = testPanel ∧ s.params = testParams := by decide

/-! ### Witnesses: concrete states and operands that meet the hypotheses of each statement, clause by clause -/

/-- The invariant from its clauses, the configure clause apart. -/
theorem inv_of_clauses {s : State} (hc : ConfigShape s)
    (h : (s.busy = true ↔ s.q ≠ []) ∧ (s.dre = true ↔ s.txbuf = none) ∧
      (s.txc = true → s.txbuf = none ∧ s.shift = none) ∧ (s.txbuf ≠ none ∨ s.shift ≠ none → s.csN = false) ∧
      (s.csN = false → s.dc ≠ none) ∧ (s.quiescent = true → s.q = []) ∧ s.fault.getLsbD 15 = false ∧
      (s.pctrl.enable = false → s.txbuf = none ∧ s.shift = none) ∧ s.sck = (if s.pctrl.enable then .low else .z) ∧
      ((s.pctrl = .programmed s.params ∧ s.pbaud = programmedBaud s.params) ∨
        (s.pctrl = { PCtrl.zero with swrst := s.pctrl.swrst } ∧ s.pbaud = 0)) ∧
      (s.swrstBusy = true → s.pctrl.enable = false ∧ (s.quiescent = true ∨ s.q.head? = some .waitSwrst)) ∧
      (s.pctrl.swrst = true → s.swrstBusy = true) ∧ stateChain s.seqState s.q = true ∧
      (s.seqState ≠ .uninit → s.pctrl.enable = true) ∧
      (s.seqState = .uninit → s.pctrl.enable = true →
        s.quiescent = true ∨ s.q.head? = some (.state .poweredOff)) ∧
      (s.q.head? = some (.state .poweredOff) → s.pctrl.enable = true) ∧
      scanTrace s.trace = some (if s.csN then none else s.dc) ∧ s.panel.ram.wf = true) : Inv s := by
  obtain ⟨h1, h2, h3, h4, h5, h6, h7, h8, h9, h10, h11, h12, h13, h14, h15, h16, h17, h18⟩ := h
  exact ⟨h1, h2, h3, h4, h5, h6, h7, h8, h9, h10, h11, h12, hc, h13, h14, h15, h16, h17, h18⟩

/-- No micro-op of configure is queued, as a test. -/
def isConfigFree (l : List MicroOp) : Bool := l.all fun u => u != .swrst && u != .waitSwrst && u != .program

theorem configShape_of_free {s : State} (h : isConfigFree s.q = true) : ConfigShape s := by
  refine .inl fun u hu => ?_
  simpa [and_assoc] using List.all_eq_true.1 h u hu

/-- A byte in the shift register of an open frame, with `left` bits to go. -/
def shifting (m : Mode) (v : Byte) (left : Fin 9) (turn : Turn) : State := withShift (frameOpened m) v left turn

/-- A byte in the transmit register of an open frame. -/
def byteWaiting (m : Mode) (v : Byte) : State := { frameOpened m with txbuf := some v, dre := false }

/-- SEQ waits for a byte that is in the shift register. -/
def waiting : State := { shifting .cmd 0xAE 0 .shDone with q := [.waitIdle], busy := true, turns := [.shDone, .seq] }

/-- A software reset in progress in a faulted block. -/
def resettingFaulted : State := { atReset with fault := 0x2, swrstBusy := true, turns := [.shReset] }

/-- SEQ waits to send a second byte; an illegal access stops it, and SHIFT finishes the first one. -/
def sendWaiting : State :=
  { byteWaiting .cmd 0x11 with
    q := [.send 0x22], busy := true, hostIn := [⟨0, 1, .read⟩]
    turns := [.shLoad, .host, .shBit, .shBit, .shBit, .shBit, .shBit, .shBit, .shBit, .shBit, .shDone] }

/-- SEQ waits with nothing in flight (P7). -/
def hanging : State := withQueue (frameOpened .cmd) [.waitIdle]

theorem inv_atReset : Inv atReset := inv_of_clauses (configShape_of_free rfl) (by decide)
theorem inv_poweredOff : Inv poweredOff := inv_of_clauses (configShape_of_free rfl) (by decide)
theorem inv_ready : Inv ready := inv_of_clauses (configShape_of_free rfl) (by decide)
theorem inv_frameOpened : Inv (frameOpened .cmd) := inv_of_clauses (configShape_of_free rfl) (by decide)
theorem inv_waiting : Inv waiting := inv_of_clauses (configShape_of_free rfl) (by decide)
theorem inv_resettingFaulted : Inv resettingFaulted := inv_of_clauses (configShape_of_free rfl) (by decide)
theorem inv_sendWaiting : Inv sendWaiting := inv_of_clauses (configShape_of_free rfl) (by decide)
theorem inv_hanging : Inv hanging := inv_of_clauses (configShape_of_free rfl) (by decide)

/-- Configure at its wait: the invariant's configure clause in its second form. -/
theorem witness_inv_configuring :
    Inv { atReset with
      q := [.waitSwrst, .program, .state .poweredOff], busy := true, swrstBusy := true
      pctrl := { PCtrl.zero with swrst := true } } :=
  inv_of_clauses (.inr ⟨rfl, rfl, [], by simp [configFree], .inr (.inl rfl)⟩) (by decide)

/-! #### Encoding -/

theorem witness_DecodeOfEncodeIsInstruction : testParams.wf = true ∧
    ([.setAddress 0xFF 0xFF, .setStartLine 0, .setStartLine 63, .setAddrMode [0x02], .displayOn [], .setPage 7].all
      fun i => Instr.wf testParams i) = true := by decide

theorem witness_EncodeOfDecodeIsWord : asRequest 0x00070F09 = some (.setAddress 15 7) ∧
    asCommand [0x7F] = some (.setStartLine 63) ∧ asCommand [0xB7] = some (.setPage 7) := by decide

theorem witness_IllegalWordsFault : decodeReq 0x00000000 = .error (.unassignedOp 0) ∧
    decodeReq 0x80000009 = .error .reservedBits ∧ decodeReq 0x00000202 = .error .operandBits ∧
    Accepting atReset ∧ atReset.q = [] := ⟨rfl, rfl, rfl, ⟨rfl, rfl, rfl⟩, rfl⟩

theorem witness_CommandLengths : testParams.wf = true ∧
    (0xB0 ≤ (0xB7 : Byte).toNat ∧ (0xB7 : Byte).toNat ≤ 0xB7) ∧
    ([0x81, 0xCF] ∈ testParams.commands ∧ [(0x81 : Byte), 0xCF].head? = some 0x81) ∧
    (¬(0xB0 ≤ (0xB8 : Byte).toNat ∧ (0xB8 : Byte).toNat ≤ 0xB7) ∧ (0xB8 : Byte) ≠ 0x21 ∧
      ∀ c ∈ testParams.commands, c.head? ≠ some 0xB8) := by decide

/-! #### A step runs the decoded instruction -/

/-- A legal word, and one that is no request. -/
theorem witness_StepRunsRequest :
    (HostAt (withAccess atReset 0 4 (.write 0x00000102)) ⟨0, 4, .write 0x00000102⟩ [] ∧
      decodeReq 0x00000102 = .ok (.select true)) ∧
    HostAt (withAccess atReset 0 4 (.write 0)) ⟨0, 4, .write 0⟩ [] := ⟨⟨⟨rfl, rfl⟩, rfl⟩, rfl, rfl⟩

theorem witness_StepRunsCommand_one : let s := shifting .cmd 0xB7 0 .shDone
    s.nextTurn = .shDone ∧ s.shift = some ⟨0xB7, 0⟩ ∧ s.dc = some .cmd ∧ s.panel.parse.bytes = [] ∧
      [(0xB7 : Byte)].length = cmdLen s.params 0xB7 ∧ decode s.params (.ctl [0xB7]) = .ok (.setPage 7) :=
  ⟨rfl, rfl, rfl, rfl, rfl, rfl⟩

theorem witness_StepRunsCommand_three :
    let s := { shifting .cmd 0x7F 0 .shDone with panel := { testPanel with parse := .params 0x21 [0x10] } }
    s.nextTurn = .shDone ∧ s.shift = some ⟨0x7F, 0⟩ ∧ s.dc = some .cmd ∧ s.panel.parse.bytes = [0x21, 0x10] ∧
      [(0x21 : Byte), 0x10, 0x7F].length = cmdLen s.params 0x21 ∧
      decode s.params (.ctl [0x21, 0x10, 0x7F]) = .ok (.setColumnRange 0x10 0x7F) :=
  ⟨rfl, rfl, rfl, rfl, rfl, rfl⟩

/-- An opcode that awaits its parameters, and the first of two parameters. -/
theorem witness_StepRunsCommand_awaits :
    (let s := shifting .cmd 0x21 0 .shDone;
      s.nextTurn = .shDone ∧ s.shift = some ⟨0x21, 0⟩ ∧ s.dc = some .cmd ∧
        (s.panel.parse.bytes ++ [0x21]).length < cmdLen s.params 0x21) ∧
    (let s := { shifting .cmd 0x10 0 .shDone with panel := { testPanel with parse := .params 0x21 [] } };
      s.nextTurn = .shDone ∧ s.shift = some ⟨0x10, 0⟩ ∧ s.dc = some .cmd ∧
        (s.panel.parse.bytes ++ [0x10]).length < cmdLen s.params 0x21) := by decide

/-- V-PNL-12: an opcode the block never sends. -/
theorem witness_StepRunsCommand_unknown : let s := shifting .cmd 0xE3 0 .shDone
    s.nextTurn = .shDone ∧ s.shift = some ⟨0xE3, 0⟩ ∧ s.dc = some .cmd ∧ s.panel.parse = .idle ∧
      [(0xE3 : Byte)].length = cmdLen s.params 0xE3 ∧
      decode s.params (.ctl [0xE3]) = .error (.unknownCommand 0xE3) ∧
      ¬(0xB0 ≤ (0xE3 : Byte).toNat ∧ (0xE3 : Byte).toNat ≤ 0xB7) ∧ (0xE3 : Byte) ≠ 0x21 ∧
      ∀ c ∈ s.params.commands, c.head? ≠ some 0xE3 :=
  ⟨rfl, rfl, rfl, rfl, rfl, rfl, by decide, by decide, by decide⟩

/-! #### Requests -/

theorem witness_TransportRequestsExpand :
    (Accepting atReset ∧ atReset.seqState = .uninit ∧ atReset.pctrl.enable = false) ∧
      (Accepting poweredOff ∧ poweredOff.q = [] ∧ poweredOff.seqState ≠ .uninit) := by
  unfold Accepting; decide

theorem witness_InitExpands :
    (Accepting atReset ∧ atReset.seqState = .uninit) ∧ (Accepting poweredOff ∧ poweredOff.seqState = .poweredOff) ∧
      (Accepting ready ∧ ready.seqState = .ready ∧ ready.q = []) ∧
      Accepting { ready with seqState := .initializing } := by
  unfold Accepting; decide

theorem witness_SetAddressExpands : Accepting ready ∧ ready.seqState = .ready ∧ ready.q = [] ∧
    ((15 : Byte).toNat ≤ 15 ∧ (7 : Byte).toNat ≤ 7) ∧ 15 < (16 : Byte).toNat ∧ 7 < (8 : Byte).toNat ∧
    Accepting poweredOff ∧ poweredOff.q = [] ∧ poweredOff.seqState ≠ .ready := by
  unfold Accepting; decide

theorem witness_ClearExpands : Accepting ready ∧ ready.seqState = .ready ∧ ready.q = [] ∧ (0x80 : Byte) ≠ 0 ∧
    Accepting poweredOff ∧ poweredOff.q = [] ∧ poweredOff.seqState ≠ .ready := by
  unfold Accepting; decide

theorem witness_PutCharCases : Accepting ready ∧ ready.seqState = .ready ∧ ready.q = [] ∧
    (0x20 ≤ (0x20 : Byte).toNat ∧ (0x20 : Byte).toNat ≤ 0x7E) ∧ (0x20 ≤ (0x7E : Byte).toNat ∧ (0x7E : Byte).toNat ≤ 0x7E) ∧
    (0x1F : Byte).toNat < 0x20 ∧ (0x7F : Byte).toNat = 0x7F ∧
    Accepting poweredOff ∧ poweredOff.q = [] ∧ poweredOff.seqState ≠ .ready := by
  unfold Accepting; decide

theorem witness_HighBitCodesDoNothing : ready.seqState = .ready ∧ ready.busy = false ∧ ready.q = [] ∧
    0x80 ≤ (0x80 : Byte).toNat ∧ 0x80 ≤ (0xFF : Byte).toNat := by decide

theorem witness_TestIsRefused : Accepting atReset ∧ Accepting ready ∧ isRequest .init = true := by
  unfold Accepting; decide

theorem witness_QuiescentIgnoresRequests :
    (({ ready with fault := 0x40 } : State).fault ≠ 0 ∨ ({ ready with fault := 0x40 } : State).refused = true) ∧
      (({ ready with refused := true } : State).fault ≠ 0 ∨ ({ ready with refused := true } : State).refused = true) ∧
      isRequest (.putChar 0x41) = true := by decide

theorem witness_BusyRequestFaults : hanging.fault = 0 ∧ hanging.refused = false ∧ hanging.busy = true ∧
    isRequest (.test 0) = true := by decide

/-! #### Micro-ops -/

theorem witness_SoftwareResetStarts : SeqAt (withQueue atReset configureOps) .swrst (configureOps.drop 1) := by
  unfold SeqAt; decide

theorem witness_SoftwareResetIsAwaited :
    (SeqAt (withQueue { atReset with swrstBusy := true } [.waitSwrst]) .waitSwrst [] ∧
      (withQueue { atReset with swrstBusy := true } [.waitSwrst]).swrstBusy = true) ∧
    SeqAt (withQueue atReset [.waitSwrst]) .waitSwrst [] ∧ (withQueue atReset [.waitSwrst]).swrstBusy = false := by
  unfold SeqAt; decide

theorem witness_ProgramWritesConfiguration : SeqAt (withQueue atReset [.program]) .program [] := by
  unfold SeqAt; decide

theorem witness_StateMicroOpMovesEngine :
    SeqAt (withQueue poweredOff [.state .initializing]) (.state .initializing) [] := by
  unfold SeqAt; decide

theorem witness_UnconfiguredTransportFaults : (∀ u ∈ [MicroOp.setDc .dat, .select true, .select false, .send 0xFF,
    .waitIdle], SeqAt (withQueue atReset [u]) u []) ∧ (withQueue atReset []).pctrl.enable = false := by
  unfold SeqAt; decide

theorem witness_ModeLineIsDriven :
    (SeqAt (withQueue poweredOff [.setDc .dat]) (.setDc .dat) [] ∧ poweredOff.pctrl.enable = true ∧
      poweredOff.csN = true) ∧
    SeqAt (withQueue (frameOpened .cmd) [.setDc .cmd]) (.setDc .cmd) [] ∧ (frameOpened .cmd).pctrl.enable = true ∧
      (frameOpened .cmd).csN = false := by
  unfold SeqAt; decide

theorem witness_SelectOpensFrame :
    (SeqAt (withQueue ready [.select true]) (.select true) [] ∧ ready.pctrl.enable = true ∧ ready.csN = true ∧
      ready.dc = some .cmd) ∧
    (SeqAt (withQueue (frameOpened .dat) [.select true]) (.select true) [] ∧ (frameOpened .dat).csN = false) ∧
    SeqAt (withQueue poweredOff [.select true]) (.select true) [] ∧ poweredOff.csN = true ∧ poweredOff.dc = none := by
  unfold SeqAt; decide

theorem witness_SelectClosesFrame :
    (SeqAt (withQueue (frameOpened .cmd) [.select false]) (.select false) [] ∧ (frameOpened .cmd).csN = false ∧
      (frameOpened .cmd).txbuf = none ∧ (frameOpened .cmd).shift = none ∧ (frameOpened .cmd).pctrl.enable = true) ∧
    (SeqAt (withQueue poweredOff [.select false]) (.select false) [] ∧ poweredOff.csN = true) ∧
    (SeqAt (withQueue (byteWaiting .cmd 0xAE) [.select false]) (.select false) [] ∧ (byteWaiting .cmd 0xAE).csN = false ∧
      (byteWaiting .cmd 0xAE).txbuf ≠ none) ∧
    SeqAt (withQueue (shifting .cmd 0xAE 0 .seq) [.select false]) (.select false) [] ∧
      (shifting .cmd 0xAE 0 .seq).shift ≠ none := by
  unfold SeqAt; decide

theorem witness_SendFillsTransmitRegister :
    (SeqAt (withQueue (frameOpened .cmd) [.send 0xFF]) (.send 0xFF) [] ∧ (frameOpened .cmd).pctrl.enable = true ∧
      (frameOpened .cmd).csN = false ∧ (frameOpened .cmd).dre = true) ∧
    (SeqAt (withQueue (byteWaiting .cmd 0x11) [.send 0x22]) (.send 0x22) [] ∧ (byteWaiting .cmd 0x11).csN = false ∧
      (byteWaiting .cmd 0x11).dre = false) ∧
    SeqAt (withQueue poweredOff [.send 0xAE]) (.send 0xAE) [] ∧ poweredOff.csN = true := by
  unfold SeqAt; decide

theorem witness_WaitIdleWaitsForTxc :
    (SeqAt (withQueue ready [.waitIdle]) .waitIdle [] ∧ ready.pctrl.enable = true ∧ ready.txc = true) ∧
    SeqAt hanging .waitIdle [] ∧ hanging.pctrl.enable = true ∧ hanging.txc = false := by
  unfold SeqAt; decide

/-! #### SHIFT -/

theorem witness_ShiftReset : (resettingFaulted.nextTurn = .shReset ∧ resettingFaulted.swrstBusy = true) ∧
    ({ atReset with turns := [.shReset] } : State).nextTurn = .shReset ∧ atReset.swrstBusy = false := by decide

theorem witness_ShiftLoad : (sendWaiting.nextTurn = .shLoad ∧ sendWaiting.pctrl.enable = true ∧
      sendWaiting.swrstBusy = false ∧ sendWaiting.shift = none ∧ sendWaiting.txbuf = some 0x11) ∧
    ({ atReset with turns := [.shLoad] } : State).nextTurn = .shLoad ∧ atReset.pctrl.enable = false ∧
    resettingFaulted.swrstBusy = true ∧ (shifting .cmd 0x11 0 .shLoad).shift ≠ none ∧ ready.txbuf = none := by decide

theorem witness_ShiftBit :
    ((shifting .dat 0xA5 8 .shBit).nextTurn = .shBit ∧ (shifting .dat 0xA5 8 .shBit).shift = some ⟨0xA5, 8⟩ ∧
      (8 : Fin 9) ≠ 0) ∧
    ((shifting .dat 0xA5 1 .shBit).shift = some ⟨0xA5, 1⟩ ∧ (1 : Fin 9) ≠ 0) ∧
    (shifting .dat 0xA5 0 .shBit).nextTurn = .shBit ∧ (shifting .dat 0xA5 0 .shBit).shift = some ⟨0xA5, 0⟩ := by decide

theorem witness_DataByteCompletes : let s := shifting .dat 0xFF 0 .shDone
    s.nextTurn = .shDone ∧ s.shift = some ⟨0xFF, 0⟩ ∧ s.dc = some .dat := by decide

theorem witness_BytesLeaveMsbFirst : (shifting .cmd 0xA5 8 .shBit).shift = some ⟨0xA5, 8⟩ ∧
    (shifting .cmd 0xA5 8 .shBit).pctrl.dord = false ∧ 0 < 8 ∧ 7 < 8 := by decide

/-! #### Host accesses -/

theorem witness_StatusReadsFields : HostAt (withAccess ready 4 4 .read) ⟨0x4, 4, .read⟩ [] ∧
    HostAt (withAccess ready 4 4 (.write 1)) ⟨0x4, 4, .write 1⟩ [] := by
  unfold HostAt; decide

theorem witness_FaultsAndReqRead : HostAt (withAccess ready 8 4 .read) ⟨0x8, 4, .read⟩ [] ∧
    HostAt (withAccess ready 0 4 .read) ⟨0x0, 4, .read⟩ [] := by
  unfold HostAt; decide

theorem witness_IllegalAccessesFault :
    (HostAt (withAccess ready 0 2 (.write 1)) ⟨0, 2, .write 1⟩ [] ∧ 2 ≠ 4) ∧
      (HostAt (withAccess ready 2 4 .read) ⟨2, 4, .read⟩ [] ∧ (2 : BitVec 4).toNat % 4 ≠ 0) ∧
      HostAt (withAccess ready 0xC 4 .read) ⟨0xC, 4, .read⟩ [] ∧
      HostAt (withAccess ready 8 4 (.write 0)) ⟨8, 4, .write 0⟩ [] ∧ HostOp.write 0 ≠ .read := by
  unfold HostAt; decide

/-! #### Rules about every step -/

/-- A step of a faulted and refused block. -/
theorem witness_FaultsAreSticky :
    let s := withAccess { ready with fault := 0x40, refused := true } 2 4 .read
    (∃ t, step s = .next t) ∧ s.fault.getLsbD 6 = true ∧ s.refused = true := ⟨⟨_, rfl⟩, rfl, rfl⟩

theorem witness_QuiescentBlockStaysPut :
    Inv resettingFaulted ∧ resettingFaulted.fault ≠ 0 ∧ ∃ t, step resettingFaulted = .next t :=
  ⟨inv_resettingFaulted, by decide, _, rfl⟩

theorem witness_OnlySeqDrivesSelectAndMode : (∃ t, step waiting = .next t) ∧ waiting.nextTurn ≠ .seq :=
  ⟨⟨_, rfl⟩, by decide⟩

theorem witness_EngineMovesForward : let s := withQueue poweredOff [.state .initializing]
    Inv s ∧ field State.seqState (step s) = some .initializing :=
  ⟨inv_of_clauses (configShape_of_free rfl) (by decide), by decide⟩

theorem witness_ParametersAreConstant : ∃ t, step waiting = .next t := ⟨_, rfl⟩

theorem witness_TraceOnlyGrows : field State.trace (step waiting) = some [.frameOpen .cmd, .byte .cmd 0xAE] := by decide

theorem witness_InvariantIsKept : Inv waiting ∧ ∃ t, step waiting = .next t := ⟨inv_waiting, _, rfl⟩

theorem witness_EveryStepAnswers : Inv atReset ∧ Inv (frameOpened .cmd) := ⟨inv_atReset, inv_frameOpened⟩

/-- Reset's panel is the fold of its empty trace, and the first step answers. -/
theorem witness_PanelIsFoldOfTrace : let s := { State.ofParams testParams with turns := [.seq] }
    s.panel = panelOf s.params s.trace ∧ ∃ t, step s = .next t := ⟨rfl, _, rfl⟩

theorem witness_TraceIsFrames :
    (Inv ready ∧ ready.csN = true) ∧ Inv (frameOpened .cmd) ∧ (frameOpened .cmd).csN = false :=
  ⟨⟨inv_ready, rfl⟩, inv_frameOpened, rfl⟩

theorem witness_ProjectedTraceIsConstant :
    Inv waiting ∧ waiting.hostIn = [] ∧ field State.fault (step waiting) = some waiting.fault :=
  ⟨inv_waiting, rfl, by decide⟩

/-! #### Runs -/

/-- Two empty frames after an earlier byte run to their end in eight steps (V-TR-14). -/
theorem witness_FrameRunsOnEverySchedule :
    let fs := [(Mode.cmd, []), (Mode.dat, [])]
    let s := { ready with q := (fs.map fun f => frame f.1 f.2).flatten, busy := true, turns := List.replicate 8 .seq }
    Inv s ∧ s.quiescent = false ∧ s.hostIn = [] ∧ s.csN = true ∧ s.pctrl.enable = true ∧
      s.q = (fs.map fun f => frame f.1 f.2).flatten ∧ ∃ t, core.run 8 s = .next t ∧ t.q = [] :=
  ⟨inv_of_clauses (configShape_of_free rfl) (by decide), rfl, rfl, rfl, rfl, rfl, _, rfl, rfl⟩

/-- Configure runs to its end in five steps (V-TR-1). -/
theorem witness_ConfigureLeavesValues :
    let s := { atReset with turns := [.seq, .shReset, .seq, .seq, .seq] }
    Inv s ∧ Accepting s ∧ s.hostIn = [] ∧ s.seqState = .uninit ∧ s.pctrl.enable = false ∧
      ∃ u t, exec .configure s = .next u ∧ core.run 5 u = .next t ∧ t.q = [] :=
  ⟨inv_of_clauses (configShape_of_free rfl) (by decide), ⟨rfl, rfl, rfl⟩, rfl, rfl, rfl, _, _, rfl, rfl, rfl⟩

theorem witness_InitRunsOnEverySchedule :
    let s := { poweredOff with turns := [.seq] }
    Inv s ∧ Accepting s ∧ s.hostIn = [] ∧ s.csN = true ∧ s.seqState = .poweredOff ∧
      ∃ u t, exec .init s = .next u ∧ core.run 1 u = .next t :=
  ⟨inv_of_clauses (configShape_of_free rfl) (by decide), ⟨rfl, rfl, rfl⟩, rfl, rfl, rfl, _, _, rfl, rfl⟩

theorem witness_InitRunsOnEverySchedule_uninit :
    Inv atReset ∧ Accepting atReset ∧ atReset.hostIn = [] ∧ atReset.csN = true ∧ atReset.seqState = .uninit ∧
      ∃ u t, exec .init atReset = .next u ∧ core.run 0 u = .next t :=
  ⟨inv_atReset, ⟨rfl, rfl, rfl⟩, rfl, rfl, rfl, _, _, rfl, rfl⟩

theorem witness_ClearZeroesSelectedPages : testParams.wf = true ∧ testPanel.parse = .idle ∧ (0x80 : Byte) ≠ 0 := by decide

/-- Cell 15 (V-PNL-3), and a cursor from which the window ends after four columns. -/
theorem witness_GlyphLandsAtCursor :
    (let pn := { testPanel with winStart := 120, col := 120 };
      pn.col.toNat + 7 ≤ pn.winEnd.toNat ∧ pn.winStart.toNat + 7 ≤ pn.winEnd.toNat ∧ pn.col ≤ pn.winEnd ∧
        pn.winEnd.toNat < pn.col.toNat + 8) ∧
    (let pn := { testPanel with winStart := 16, col := 124 };
      pn.winStart.toNat + 7 ≤ pn.winEnd.toNat ∧ pn.col ≤ pn.winEnd ∧ pn.winEnd.toNat < pn.col.toNat + 4 ∧
        (List.range 9).map pn.columnAfter = [124, 125, 126, 127, 16, 17, 18, 19, 20]) := by decide

theorem witness_IdleWaitHangs : Inv hanging ∧ hanging.quiescent = false ∧ hanging.pctrl.enable = true ∧
    hanging.q = .waitIdle :: [] ∧ hanging.txc = false ∧ hanging.txbuf = none ∧ hanging.shift = none ∧
    ∃ t, core.run 1 hanging = .next t := ⟨inv_hanging, rfl, rfl, rfl, rfl, rfl, rfl, _, rfl⟩

/-- Ended, the second with an illegal access still to come, the third hung. -/
theorem witness_EndedRunsAreIdle : (Inv ready ∧ Ended ready ∧ ∃ t, step ready.beginStep = .next t) ∧
    (let s := withAccess ready 4 1 .read;
      Inv s ∧ Ended s ∧ field State.fault (step s) = some 2) ∧ Inv hanging ∧ Ended hanging ∧ Hung hanging :=
  ⟨⟨inv_ready, by unfold Ended; decide, by
      rcases step_total ready.beginStep with h | ⟨-, h, -⟩
      · exact h
      · exact absurd h (by decide)⟩,
    ⟨inv_of_clauses (configShape_of_free rfl) (by decide), by unfold Ended; decide, by decide⟩, inv_hanging,
    by unfold Ended; decide, by unfold Hung Ended; decide⟩

/-- A parameter set that meets every condition, and one the clock alone fails. -/
theorem witness_LaunchRefusesIllFormed :
    (let p := testParams;
      let firsts := (p.initTable ++ [p.addrModeCmd, p.displayOnCmd]).map fun c => c.headD 0;
      p.initTable.map List.length = [1, 2, 2, 2, 1, 2, 1, 1, 2, 2, 2, 2, 1] ∧ 1 ≤ p.addrModeCmd.length ∧
        1 ≤ p.displayOnCmd.length ∧ firsts.Pairwise (· ≠ ·) ∧
        (∀ b ∈ firsts, ¬(0xB0 ≤ b.toNat ∧ b.toNat ≤ 0xB7) ∧ b ≠ 0x21) ∧
        0 < p.fRef ∧ p.fRef ≤ 512 * 10000000 ∧ p.hostBase % 4 = 0) ∧
    512 * 10000000 < ({ testParams with fRef := 5120000001 } : Params).fRef := by decide

theorem witness_BaudIsFastestWithinLimit : 0 < 1 ∧ 1 ≤ 10000000 * (2 * (0 + 1)) := by decide

/-! #### Fair runs -/

/-- The run from a state, one step a number. -/
def runFrom : State → Nat → State
  | s, 0 => s
  | s, n + 1 =>
    match step s with
    | .next t => runFrom t n
    | _ => s

/-- Nothing is left to do: whatever turn comes, a step only counts itself. -/
def Calm (s : State) : Prop :=
  s.q = [] ∧ s.hostIn = [] ∧ s.turns = [] ∧ s.swrstBusy = false ∧ s.txbuf = none ∧ s.shift = none

theorem Calm.step {s : State} (h : Calm s) : ∃ t, Machine.step s = .next t ∧ Calm t := by
  obtain ⟨h1, h2, h3, h4, h5, h6⟩ := h
  refine ⟨s.beginStep, ?_, h1, h2, by simp [State.beginStep, h3], h4, h5, h6⟩
  unfold Machine.step
  cases s.nextTurn <;>
    simp [runTurn, hostTurn, seqTurn, shReset, shLoad, shBit, shDoneTurn, State.beginStep, h1, h2, h4, h5, h6]

/-- The run from a state comes to rest after `k` steps. -/
def Settles (k : Nat) (s : State) : Prop := ∃ u, core.run k s = .next u ∧ Calm u

theorem Settles.step : ∀ {k : Nat} {s : State}, Settles k s → ∃ t, Machine.step s = .next t ∧ Settles (k - 1) t
  | 0, _, ⟨_, hu, hc⟩ => by
    obtain ⟨t, ht, hct⟩ := (core_run_zero.1 hu ▸ hc : Calm _).step
    exact ⟨t, ht, t, core_run_zero.2 rfl, hct⟩
  | _ + 1, _, ⟨u, hu, hc⟩ => by
    obtain ⟨t, ht, hr⟩ := core_run_succ.1 hu
    exact ⟨t, ht, u, hr, hc⟩

theorem Settles.isRun : ∀ {k : Nat} {s : State}, Settles k s → IsRun (runFrom s) := by
  intro k s h n
  induction n generalizing k s with
  | zero =>
    obtain ⟨t, ht, -⟩ := h.step
    simp [runFrom, ht]
  | succ n ih =>
    obtain ⟨t, ht, hs⟩ := h.step
    simpa [runFrom, ht] using ih hs

theorem Settles.calm {k : Nat} {s : State} (h : Settles k s) (m : Nat) (hm : k ≤ m) : Calm (runFrom s m) := by
  induction m generalizing k s with
  | zero =>
    obtain ⟨u, hu, hc⟩ := h
    obtain rfl : k = 0 := by omega
    exact core_run_zero.1 hu ▸ hc
  | succ m ih =>
    obtain ⟨t, ht, hs⟩ := h.step
    simpa [runFrom, ht] using ih hs (by omega)

theorem Settles.weaklyFair {k : Nat} {s : State} (h : Settles k s) : WeaklyFair (runFrom s) := by
  intro t ht n he
  obtain ⟨-, -, -, h4, h5, h6⟩ := h.calm (max n k) (le_max_right _ _)
  have := he (max n k) (le_max_left _ _)
  simp only [shiftTurns, List.mem_cons, List.not_mem_nil, or_false] at ht
  rcases ht with rfl | rfl | rfl | rfl <;> simp [turnEnabled, h4, h5, h6] at this

/-- A run that comes to rest with an enabled step goes on until then. -/
theorem Settles.proceeds {k : Nat} {s : State} (h : Settles (k + 1) s)
    (hl : turnEnabled (runFrom s k).nextTurn (runFrom s k) = true) : Proceeds (runFrom s) := by
  intro n he
  by_cases hn : n ≤ k
  · exact ⟨k, hn, hl⟩
  · obtain ⟨h1, h2, -⟩ := h.calm n (by omega)
    simp [turnEnabled, seqEnabled, h1, h2] at he

theorem witness_ResponsivePeripheral_reset : ∃ r : Nat → State, IsRun r ∧ RespondsIfLive r ∧
    (r 0).params.periphLive = true ∧ Inv (r 0) ∧ (r 0).swrstBusy = true := by
  have h : Settles 1 resettingFaulted := ⟨_, rfl, rfl, rfl, rfl, rfl, rfl, rfl⟩
  exact ⟨runFrom resettingFaulted, h.isRun, fun _ => h.weaklyFair, rfl, inv_resettingFaulted, rfl⟩

theorem witness_ResponsivePeripheral_waitIdle : ∃ r : Nat → State, IsRun r ∧ RespondsIfLive r ∧
    (r 0).params.periphLive = true ∧ Inv (r 0) ∧ (r 0).q.head? = some .waitIdle ∧ (r 0).shift ≠ none := by
  have h : Settles 2 waiting := ⟨_, rfl, rfl, rfl, rfl, rfl, rfl, rfl⟩
  exact ⟨runFrom waiting, h.isRun, fun _ => h.weaklyFair, rfl, inv_waiting, rfl, by decide⟩

theorem witness_ResponsivePeripheral_send : ∃ r : Nat → State, IsRun r ∧ RespondsIfLive r ∧
    (r 0).params.periphLive = true ∧ Inv (r 0) ∧ (∃ v, (r 0).q.head? = some (.send v)) ∧ (r 0).dre = false := by
  have h : Settles 11 sendWaiting := ⟨_, rfl, rfl, rfl, rfl, rfl, rfl, rfl⟩
  exact ⟨runFrom sendWaiting, h.isRun, fun _ => h.weaklyFair, rfl, inv_sendWaiting, ⟨0x22, rfl⟩, rfl⟩

/-- A run that goes on, and in which SEQ does not hold for good. -/
theorem witness_ResponsivePeripheral_ends : ∃ r : Nat → State, IsRun r ∧ RespondsIfLive r ∧
    (r 0).params.periphLive = true ∧ Inv (r 0) ∧ Proceeds r ∧ ∀ n, ∃ m, n ≤ m ∧ seqHolding (r m) = false := by
  have h : Settles 2 waiting := ⟨_, rfl, rfl, rfl, rfl, rfl, rfl, rfl⟩
  refine ⟨runFrom waiting, h.isRun, fun _ => h.weaklyFair, rfl, inv_waiting, h.proceeds (by decide), fun n => ?_⟩
  refine ⟨max n 2, le_max_left _ _, ?_⟩
  simp [seqHolding, (h.calm (max n 2) (le_max_right _ _)).1]

end Sys2Proof.Machine
end

namespace Sys2Proof.Machine

/-! ### No stop under the invariant -/

/-- A byte in flight stands in an open frame (R136), and an open frame has its mode (R134). -/
theorem Inv.dc_ne_none_of_shift {s : State} (hi : Inv s) (hs : s.shift ≠ none) : s.dc ≠ none :=
  hi.frame_mode (hi.flight_framed (.inr hs))

/-- Settles O46: the one stop needs a byte in the shift register and an unwritten mode line, which the invariant
excludes together. -/
theorem everyStepAnswers : Obligations.EveryStepAnswers := by
  intro s hi
  rcases step_total s with hnext | ⟨-, hdc, hshift⟩
  · exact hnext
  · exact absurd hdc (hi.dc_ne_none_of_shift hshift)

end Sys2Proof.Machine

namespace Sys2Proof.Machine

/-! ### What each turn leaves alone -/

theorem HostMove.seqState_eq {s t : State} (h : HostMove s t) : t.seqState = s.seqState := by cases h <;> rfl

theorem HostMove.params_eq {s t : State} (h : HostMove s t) : t.params = s.params := by cases h <;> rfl

theorem HostMove.trace_eq {s t : State} (h : HostMove s t) : t.trace = s.trace := by cases h <;> rfl

theorem MicroDone.fault_eq {u : MicroOp} {s t : State} (h : MicroDone s u t) : t.fault = s.fault := by cases h <;> rfl

theorem MicroDone.refused_eq {u : MicroOp} {s t : State} (h : MicroDone s u t) : t.refused = s.refused := by
  cases h <;> rfl

theorem MicroDone.params_eq {u : MicroOp} {s t : State} (h : MicroDone s u t) : t.params = s.params := by cases h <;> rfl

/-- What every step of SHIFT leaves as it was: the engine, the queue, the faults, the pins SEQ drives and the
parameters (R139). -/
structure ShiftFrame (s t : State) : Prop where
  seqState : t.seqState = s.seqState
  q : t.q = s.q
  busy : t.busy = s.busy
  fault : t.fault = s.fault
  refused : t.refused = s.refused
  csN : t.csN = s.csN
  dc : t.dc = s.dc
  params : t.params = s.params

theorem ShiftFrame.refl (s : State) : ShiftFrame s s := ⟨rfl, rfl, rfl, rfl, rfl, rfl, rfl, rfl⟩

theorem shReset_frame (s : State) : ShiftFrame s (shReset s) := by
  rcases shReset_cases s with ⟨-, e⟩ | ⟨-, e⟩ <;> rw [e]
  · exact .refl s
  · exact ⟨rfl, rfl, rfl, rfl, rfl, rfl, rfl, rfl⟩

theorem shLoad_frame (s : State) : ShiftFrame s (shLoad s) := by
  rcases shLoad_cases s with ⟨-, e⟩ | ⟨v, -, -, -, -, e⟩ <;> rw [e]
  · exact .refl s
  · exact ⟨rfl, rfl, rfl, rfl, rfl, rfl, rfl, rfl⟩

theorem shBit_frame (s : State) : ShiftFrame s (shBit s) := by
  rcases shBit_cases s with ⟨-, e⟩ | ⟨r, -, -, e⟩ <;> rw [e]
  · exact .refl s
  · exact ⟨rfl, rfl, rfl, rfl, rfl, rfl, rfl, rfl⟩

theorem DoneMove.frame {s t : State} (h : DoneMove s t) : ShiftFrame s t := by
  cases h with
  | stay => exact .refl s
  | done => exact ⟨rfl, rfl, rfl, rfl, rfl, rfl, rfl, rfl⟩

/-- A move is the host's, SEQ's, or one of SHIFT's, which keep SHIFT's frame. -/
theorem Move.byAgent {s t : State} {tn : Turn} (h : Move s tn t) :
    (∃ rest, HostMove { s with hostIn := rest } t) ∨ SeqMove s t ∨ ShiftFrame s t := by
  cases h with
  | hostIdle => exact .inl ⟨s.hostIn, .stay⟩
  | host a rest t h hm => exact .inl ⟨rest, hm⟩
  | seq t hm => exact .inr (.inl hm)
  | shReset => exact .inr (.inr (shReset_frame s))
  | shLoad => exact .inr (.inr (shLoad_frame s))
  | shBit => exact .inr (.inr (shBit_frame s))
  | shDone t hm => exact .inr (.inr hm.frame)

/-! ### Parameters and sticky bits -/

theorem SeqMove.params_eq {s t : State} (h : SeqMove s t) : t.params = s.params := by
  cases h with
  | stay => rfl
  | done u rest s' hq hn hd => exact hd.params_eq
  | raise => rfl

/-- Settles O42: none of the three agents writes the parameters. -/
theorem parametersAreConstant : Obligations.ParametersAreConstant := by
  intro s t h
  obtain ⟨tn, -, hm⟩ := step_move h
  rcases hm.byAgent with ⟨rest, hh⟩ | hs | hf
  · exact hh.params_eq
  · exact hs.params_eq
  · exact hf.params

/-- Every fault bit and REFUSED, where set in the first state, are set in the second (R25). -/
def FaultsKept (s t : State) : Prop :=
  (∀ i, s.fault.getLsbD i = true → t.fault.getLsbD i = true) ∧ (s.refused = true → t.refused = true)

theorem FaultsKept.of_eq {s t : State} (hf : t.fault = s.fault) (hr : t.refused = s.refused) : FaultsKept s t :=
  ⟨fun _ h => hf ▸ h, fun h => hr ▸ h⟩

/-- The fault action only adds a bit to the set (R232). -/
theorem State.raise_faultsKept (s : State) (c : FaultCause) : FaultsKept s (s.raise c) :=
  ⟨fun i h => by simp [h], id⟩

theorem HostMove.faultsKept {s t : State} (h : HostMove s t) : FaultsKept s t := by
  cases h with
  | stay => exact .of_eq rfl rfl
  | reply => exact .of_eq rfl rfl
  | accept => exact .of_eq rfl rfl
  | raise c => exact s.raise_faultsKept c
  | raiseReply => exact s.raise_faultsKept .illegalAccess
  | refuse => exact ⟨fun _ h => h, fun _ => rfl⟩

theorem SeqMove.faultsKept {s t : State} (h : SeqMove s t) : FaultsKept s t := by
  cases h with
  | stay => exact .of_eq rfl rfl
  | done u rest s' hq hn hd => exact .of_eq hd.fault_eq hd.refused_eq
  | raise u rest c => exact s.raise_faultsKept c

/-- Settles O38: the fault action adds a bit, the refusal sets REFUSED, and nothing else writes either. -/
theorem faultsAreSticky : Obligations.FaultsAreSticky := by
  intro s t h
  obtain ⟨tn, -, hm⟩ := step_move h
  rcases hm.byAgent with ⟨rest, hh⟩ | hs | hf
  · exact hh.faultsKept
  · exact hs.faultsKept
  · exact FaultsKept.of_eq hf.fault hf.refused

/-! ### The engine's state -/

/-- The engine stays, or makes one of its three transitions (R22). -/
def SeqState.Advances (a b : SeqState) : Prop := b = a ∨ a.succ? = some b

/-- The three transitions, written out. -/
theorem SeqState.Advances.cases {a b : SeqState} (h : a.Advances b) :
    b = a ∨ (a = .uninit ∧ b = .poweredOff) ∨ (a = .poweredOff ∧ b = .initializing) ∨
      (a = .initializing ∧ b = .ready) := by
  rcases h with h | h
  · exact .inl h
  · cases a <;> simp_all [SeqState.succ?]

/-- A `u_STATE` at the head of a chain makes one of the three transitions. -/
theorem stateChain_state {a b : SeqState} {r : List MicroOp} :
    stateChain a (.state b :: r) = true ↔ a.succ? = some b ∧ stateChain b r = true := by
  simp [stateChain]

/-- A micro-op moves the engine only as `u_STATE` says (R163). -/
theorem MicroDone.seqState_advances {s s' : State} {u : MicroOp} {r : List MicroOp} (hd : MicroDone s u s')
    (hc : stateChain s.seqState (u :: r) = true) : s.seqState.Advances s'.seqState := by
  cases hd with
  | state t => exact .inr (stateChain_state.1 hc).1
  | _ => exact .inl rfl

theorem SeqMove.seqState_advances {s t : State} (h : SeqMove s t) (hc : stateChain s.seqState s.q = true) :
    s.seqState.Advances t.seqState := by
  cases h with
  | stay => exact .inl rfl
  | done u rest s' hq hn hd => exact hd.seqState_advances (hq ▸ hc)
  | raise => exact .inl rfl

/-- Settles O41: only SEQ writes the engine's state, and the invariant's chain clause says where its next micro-op may
move it. -/
theorem engineMovesForward : Obligations.EngineMovesForward := by
  intro s t hi h
  obtain ⟨tn, -, hm⟩ := step_move h
  apply SeqState.Advances.cases
  rcases hm.byAgent with ⟨rest, hh⟩ | hs | hf
  · exact .inl hh.seqState_eq
  · exact hs.seqState_advances hi.chain
  · exact .inl hf.seqState

/-! ### The trace -/

/-- The second trace is the first with at most one event appended. -/
def TraceGrows (a b : List Event) : Prop := ∃ es : List Event, es.length ≤ 1 ∧ b = a ++ es

theorem TraceGrows.of_eq {a b : List Event} (h : b = a) : TraceGrows a b := ⟨[], by simp, by simp [h]⟩

theorem TraceGrows.snoc (a : List Event) (e : Event) : TraceGrows a (a ++ [e]) := ⟨[e], by simp, rfl⟩

theorem MicroDone.traceGrows {s s' : State} {u : MicroOp} (hd : MicroDone s u s') : TraceGrows s.trace s'.trace := by
  cases hd with
  | openFrame => exact .snoc _ _
  | closeFrame => exact .snoc _ _
  | _ => exact .of_eq rfl

theorem SeqMove.traceGrows {s t : State} (h : SeqMove s t) : TraceGrows s.trace t.trace := by
  cases h with
  | stay => exact .of_eq rfl
  | done u rest s' hq hn hd => exact hd.traceGrows
  | raise => exact .of_eq rfl

theorem shReset_trace (s : State) : (shReset s).trace = s.trace := by
  rcases shReset_cases s with ⟨-, e⟩ | ⟨-, e⟩ <;> rw [e]

theorem shLoad_trace (s : State) : (shLoad s).trace = s.trace := by
  rcases shLoad_cases s with ⟨-, e⟩ | ⟨v, -, -, -, -, e⟩ <;> rw [e]

theorem shBit_trace (s : State) : (shBit s).trace = s.trace := by
  rcases shBit_cases s with ⟨-, e⟩ | ⟨r, -, -, e⟩ <;> rw [e]

theorem DoneMove.traceGrows {s t : State} (h : DoneMove s t) : TraceGrows s.trace t.trace := by
  cases h with
  | stay => exact .of_eq rfl
  | done => exact .snoc _ _

/-- Settles O43: the events are those of `u_SELECT` and of SH_DONE, one a step. -/
theorem traceOnlyGrows : Obligations.TraceOnlyGrows := by
  intro s t h
  obtain ⟨tn, -, hm⟩ := step_move h
  cases hm with
  | hostIdle => exact TraceGrows.of_eq rfl
  | host a rest t h hm => exact TraceGrows.of_eq hm.trace_eq
  | seq t hm => exact hm.traceGrows
  | shReset => exact TraceGrows.of_eq (shReset_trace _)
  | shLoad => exact TraceGrows.of_eq (shLoad_trace _)
  | shBit => exact TraceGrows.of_eq (shBit_trace _)
  | shDone t hm => exact hm.traceGrows

theorem scanTrace_snoc (l : List Event) (e : Event) : scanTrace (l ++ [e]) = scanEvent (scanTrace l) e := by
  simp [scanTrace]

/-- A malformed trace stays malformed. -/
theorem foldl_scanEvent_none (l : List Event) : l.foldl scanEvent none = none := by
  induction l with
  | nil => rfl
  | cons e l ih => exact ih

/-- A scan that ends between frames has read whole frames, after the rest of the one it began in (R41). -/
theorem frames_of_scan (l : List Event) :
    (l.foldl scanEvent (some none) = some none → FrameTrace l) ∧
      ∀ m, l.foldl scanEvent (some (some m)) = some none →
        ∃ (bs : List Byte) (rest : List Event), l = bs.map (Event.byte m) ++ .frameClose :: rest ∧ FrameTrace rest := by
  induction l with
  | nil => exact ⟨fun _ => .nil, fun m h => by simp at h⟩
  | cons e l ih =>
    obtain ⟨ihOut, ihIn⟩ := ih
    refine ⟨fun h => ?_, fun m h => ?_⟩
    · cases e with
      | frameOpen m =>
        obtain ⟨bs, rest, rfl, hr⟩ := ihIn m h
        exact .frame m bs rest hr
      | byte n v => simp [scanEvent, foldl_scanEvent_none] at h
      | frameClose => simp [scanEvent, foldl_scanEvent_none] at h
    · cases e with
      | frameOpen n => simp [scanEvent, foldl_scanEvent_none] at h
      | byte n v =>
        by_cases hmn : m = n
        · subst hmn
          obtain ⟨bs, rest, rfl, hr⟩ := ihIn m (by simpa [scanEvent] using h)
          exact ⟨v :: bs, rest, rfl, hr⟩
        · simp [scanEvent, hmn, foldl_scanEvent_none] at h
      | frameClose => exact ⟨[], l, rfl, ihOut h⟩

theorem frameTrace_of_scan {l : List Event} (h : scanTrace l = some none) : FrameTrace l := (frames_of_scan l).1 h

/-- Settles O48: the scanner's verdict in the invariant is R41's well-formedness, with the open frame closed. -/
theorem traceIsFrames : Obligations.TraceIsFrames := by
  intro s hi
  have hscan := hi.trace_shape
  refine ⟨fun hc => frameTrace_of_scan (by simpa [hc] using hscan), fun hc => frameTrace_of_scan ?_⟩
  obtain ⟨m, hm⟩ := Option.ne_none_iff_exists'.1 (hi.frame_mode hc)
  rw [scanTrace_snoc, hscan]
  simp [hc, hm, scanEvent]

end Sys2Proof.Machine

namespace Sys2Proof.Machine

/-! ### What the host reads -/

/-- The host's turn, with its access at hand. -/
theorem step_of_hostAt {s : State} {a : HostAccess} {rest : List HostAccess} (h : HostAt s a rest) :
    step s = hostAccess a (afterAccess s rest) := by
  obtain ⟨hturn, hin⟩ := h
  simp [step, hturn, runTurn, hostTurn, hin, afterAccess, afterStep, State.beginStep]

theorem hostAccess_read {a : HostAccess} (hl : a.legal = true) (ho : a.op = .read) (s : State) :
    hostAccess a s = .next (s.reply (readWord a.off s)) := by
  simp [hostAccess, hl, ho]

theorem hostAccess_illegalWrite {a : HostAccess} {v : Word} (hl : a.legal = false) (ho : a.op = .write v) (s : State) :
    hostAccess a s = .next (s.raise .illegalAccess) := by
  simp [hostAccess, hl, ho]

/-- A legal read adds its word to the replies and has no other effect (R61). -/
theorem step_read {s : State} {off : BitVec 4} {rest : List HostAccess} (h : HostAt s ⟨off, 4, .read⟩ rest)
    (hl : HostAccess.legal ⟨off, 4, .read⟩ = true) :
    step s = .next { afterAccess s rest with replies := s.replies ++ [readWord off (afterAccess s rest)] } := by
  rw [step_of_hostAt h, hostAccess_read hl rfl]
  rfl

/-- A flag's word has its flag at its place and zeros elsewhere. -/
theorem flagAt_getLsbD (b : Bool) (n i : Nat) : (flagAt b n).getLsbD i = (decide (i < 32 ∧ i = n) && b) := by
  have hplace : i < 32 ∧ i = n ↔ i < 32 ∧ n ≤ i ∧ i - n < 32 ∧ i - n = 0 := by omega
  rw [Bool.eq_iff_iff]
  simp [flagAt, hplace, and_assoc]

/-- The bits of STATUS, as R27's table lists them. -/
def statusBit (s : State) : Nat → Bool
  | 0 => s.busy
  | 1 => s.faulted
  | 2 => s.seqState.code.getLsbD 0
  | 3 => s.seqState.code.getLsbD 1
  | 4 => !s.csN
  | 5 => s.dcBit
  | 6 => s.dc.isSome
  | 7 => s.dre
  | 8 => s.txc
  | 9 => s.swrstBusy
  | 10 => s.pctrl.enable
  | _ => false

theorem statusWord_getLsbD (s : State) (i : Nat) : (statusWord s).getLsbD i = statusBit s i := by
  simp only [statusWord, BitVec.getLsbD_or, flagAt_getLsbD, BitVec.getLsbD_shiftLeft, BitVec.getLsbD_setWidth]
  match i with
  | 0 | 1 | 2 | 3 | 4 | 5 | 6 | 7 | 8 | 9 | 10 => simp [statusBit]
  | n + 11 => simp [statusBit]

/-- STATUS[3:2] is the engine's code (R27, R22). -/
theorem statusWord_seqState (s : State) : (statusWord s).extractLsb' 2 2 = s.seqState.code := by
  apply BitVec.eq_of_getLsbD_eq
  intro i hi
  rw [BitVec.getLsbD_extractLsb', statusWord_getLsbD]
  match i, hi with
  | 0, _ => rfl
  | 1, _ => rfl

/-- STATUS[31:11] is 0 (R27). -/
theorem statusWord_high (s : State) : (statusWord s).extractLsb' 11 21 = 0 := by
  apply BitVec.eq_of_getLsbD_eq
  intro i hi
  rw [BitVec.getLsbD_extractLsb', statusWord_getLsbD, Nat.add_comm 11 i]
  simp [statusBit]

theorem State.faulted_iff (s : State) : s.faulted = true ↔ s.fault ≠ 0 ∨ s.refused = true := s.quiescent_iff

theorem State.dcBit_iff (s : State) : s.dcBit = true ↔ s.dc = some .dat := by simp [State.dcBit]

theorem legal_writeStatus (v : Word) : HostAccess.legal ⟨0x4, 4, .write v⟩ = false := by simp [HostAccess.legal]

/-- Settles O33: the word is STATUS of a state that differs from `s` in the schedule and the accesses alone. -/
theorem statusReadsFields : Obligations.StatusReadsFields := by
  intro s rest
  refine ⟨fun h => ⟨statusWord s, step_read h (by decide), ?_⟩, fun v h => ?_⟩
  · have bit := statusWord_getLsbD s
    refine ⟨bit 0, ?_, ?_, ?_, ?_, ?_, bit 7, bit 8, bit 9, bit 10, statusWord_high s⟩
    · rw [bit 1]; exact s.faulted_iff
    · rw [statusWord_seqState]; cases s.seqState <;> rfl
    · rw [bit 4]; simp [statusBit]
    · rw [bit 5]; exact s.dcBit_iff
    · rw [bit 6]; exact Option.isSome_iff_ne_none
  · rw [step_of_hostAt h, hostAccess_illegalWrite (legal_writeStatus v) rfl]
    rfl

/-- FAULTS holds the fault set in its low half and zeros above it (R28). -/
theorem faultsWord_getLsbD (s : State) (i : Nat) :
    (faultsWord s).getLsbD i = (decide (i < 16) && s.fault.getLsbD i) := by
  rw [faultsWord, BitVec.getLsbD_setWidth, Bool.eq_iff_iff]
  simp only [Bool.and_eq_true, decide_eq_true_eq]
  exact ⟨fun ⟨_, hb⟩ => ⟨BitVec.lt_of_getLsbD hb, hb⟩, fun ⟨hi, hb⟩ => ⟨by omega, hb⟩⟩

/-- Settles O34: FAULTS is the fault set zero-extended, and REQ reads as 0. -/
theorem faultsAndReqRead : Obligations.FaultsAndReqRead := by
  intro s rest
  exact ⟨fun h => ⟨faultsWord s, step_read h (by decide), faultsWord_getLsbD s⟩, fun h => step_read h (by decide)⟩

/-! ### Reset -/

/-- Settles O58: every field of block reset is a constant or a field of the state before it. -/
theorem resetValues : Obligations.ResetValues :=
  ⟨fun _ => ⟨⟨rfl, rfl, rfl, rfl, rfl, rfl, rfl, rfl, rfl, rfl, rfl, rfl, rfl, rfl, rfl, rfl, rfl, rfl, rfl⟩,
      rfl, rfl, rfl, rfl, rfl, rfl⟩,
    ⟨rfl, rfl, rfl, rfl, rfl, rfl, rfl, rfl, rfl, rfl, rfl, rfl, rfl, rfl, rfl, rfl, rfl, rfl, rfl⟩, rfl, rfl, rfl⟩

/-- Settles O45: after reset nothing is queued, in flight or faulted, the peripheral is disabled and no frame is open. -/
theorem invariantAtReset : Obligations.InvariantAtReset := fun p =>
  { busy_iff := by simp [State.ofParams]
    dre_iff := by simp [State.ofParams]
    txc_idle := fun _ => ⟨rfl, rfl⟩
    flight_framed := by simp [State.ofParams]
    frame_mode := by simp [State.ofParams]
    quiet := fun _ => rfl
    fault_bit15 := by simp [State.ofParams]
    disabled_idle := fun _ => ⟨rfl, rfl⟩
    sck_level := rfl
    programmed := .inr ⟨rfl, rfl⟩
    resetting := by simp [State.ofParams]
    swrst_field := by simp [State.ofParams, PCtrl.zero]
    config_shape := .inl (by simp [State.ofParams, configFree])
    chain := rfl
    configured := fun h => absurd rfl h
    leaving := by simp [State.ofParams, PCtrl.zero]
    powering := by simp [State.ofParams]
    trace_shape := rfl
    ram_wf := rfl }

end Sys2Proof.Machine

namespace Sys2Proof.Machine

/-! ### Queues of bus micro-ops -/

/-- The micro-ops of a frame: the mode line, chip select, a byte, the wait. Each needs the peripheral enabled (R132). -/
def MicroOp.onBus : MicroOp → Bool
  | .setDc _ | .select _ | .send _ | .waitIdle => true
  | .swrst | .waitSwrst | .program | .state _ => false

/-- A queue of bus micro-ops alone. -/
def BusOnly (l : List MicroOp) : Prop := ∀ u ∈ l, u.onBus = true

theorem BusOnly.nil : BusOnly [] := by simp [BusOnly]

theorem BusOnly.singleton {u : MicroOp} (h : u.onBus = true) : BusOnly [u] := by simpa [BusOnly] using h

theorem BusOnly.append {l r : List MicroOp} (hl : BusOnly l) (hr : BusOnly r) : BusOnly (l ++ r) := fun u hu =>
  (List.mem_append.1 hu).elim (hl u) (hr u)

theorem BusOnly.flatMap {α : Type} {l : List α} {f : α → List MicroOp} (h : ∀ a, BusOnly (f a)) :
    BusOnly (l.flatMap f) := fun u hu =>
  let ⟨a, _, ha⟩ := List.mem_flatMap.1 hu
  h a u ha

theorem frame_busOnly (m : Mode) (bs : List Byte) : BusOnly (frame m bs) := by
  intro u hu
  simp only [frame, List.mem_append, List.mem_cons, List.not_mem_nil, or_false, List.mem_map] at hu
  rcases hu with ((rfl | rfl) | ⟨v, -, rfl⟩) | (rfl | rfl) <;> rfl

theorem addressOps_busOnly (t : Params) (x p : Byte) : BusOnly (addressOps t x p) :=
  ((frame_busOnly _ _).append (frame_busOnly _ _)).append (frame_busOnly _ _)

theorem clearOps_busOnly (t : Params) (mask : Byte) : BusOnly (clearOps t mask) := by
  refine BusOnly.flatMap fun p => ?_
  split_ifs
  · exact (addressOps_busOnly _ _ _).append (frame_busOnly _ _)
  · exact .nil

/-- The bus micro-ops between the two `u_STATE`s of a power-up (R165). -/
def powerUpBusOps (t : Params) : List MicroOp :=
  t.initTable.flatMap cmdFrame ++ clearOps t 0xFF ++ cmdFrame t.addrModeCmd ++ cmdFrame t.displayOnCmd

theorem powerUpOps_eq (t : Params) :
    powerUpOps t = .state .initializing :: (powerUpBusOps t ++ [.state .ready]) := by
  simp [powerUpOps, powerUpBusOps]

theorem powerUpBusOps_busOnly (t : Params) : BusOnly (powerUpBusOps t) :=
  (((BusOnly.flatMap fun _ => frame_busOnly _ _).append (clearOps_busOnly _ _)).append (frame_busOnly _ _)).append
    (frame_busOnly _ _)

/-- Everything an accepted request can queue: bus micro-ops, configure, or the power-up with configure before it where
the transport needs it. -/
theorem expand_ops_cases {i : Instr} {s : State} {l : List MicroOp} (h : expand i s = some (.ops l)) :
    BusOnly l ∨ (s.seqState = .uninit ∧ l = configureOps) ∨
      (s.seqState = .uninit ∧ l = configureOps ++ powerUpOps s.params) ∨
      (s.seqState = .poweredOff ∧ l = powerUpOps s.params) := by
  cases i with
  | configure =>
    simp only [expand, expandConfigure] at h
    split_ifs at h with hc
    · cases h
    · cases h
      exact .inr (.inl ⟨not_not.1 (not_or.1 hc).1, rfl⟩)
  | init =>
    simp only [expand, expandInit] at h
    split_ifs at h with hc
    · cases h
    · cases h
      obtain ⟨hInitializing, hReady⟩ := not_or.1 hc
      cases hs : s.seqState with
      | uninit => exact .inr (.inr (.inl ⟨rfl, rfl⟩))
      | poweredOff => exact .inr (.inr (.inr ⟨rfl, rfl⟩))
      | initializing => exact absurd hs hInitializing
      | ready => exact absurd hs hReady
  | select | setMode | sendByte | waitIdle =>
    cases h
    exact .inl (.singleton rfl)
  | setAddress x p =>
    simp only [expand, expandSetAddress] at h
    split_ifs at h <;> cases h
    exact .inl (addressOps_busOnly _ _ _)
  | clear mask =>
    simp only [expand, expandClear] at h
    split_ifs at h <;> cases h
    exact .inl (clearOps_busOnly _ _)
  | putChar c =>
    simp only [expand, expandPutChar] at h
    split_ifs at h <;> cases h
    · exact .inl .nil
    · exact .inl (frame_busOnly _ _)
  | _ => cases h

/-! ### The invariant's clauses on a queue -/

theorem stateChain_cons_of_ne {u : MicroOp} (hu : ∀ b, u ≠ .state b) (a : SeqState) (r : List MicroOp) :
    stateChain a (u :: r) = stateChain a r := by
  cases u with
  | state b => exact absurd rfl (hu b)
  | _ => rfl

theorem MicroOp.ne_state_of_onBus {u : MicroOp} (h : u.onBus = true) (b : SeqState) : u ≠ .state b := by
  rintro rfl
  simp [MicroOp.onBus] at h

/-- Bus micro-ops do not touch a chain (R22). -/
theorem stateChain_append_of_busOnly {l : List MicroOp} (h : BusOnly l) (a : SeqState) (r : List MicroOp) :
    stateChain a (l ++ r) = stateChain a r := by
  induction l with
  | nil => rfl
  | cons u l ih =>
    rw [List.cons_append, stateChain_cons_of_ne (MicroOp.ne_state_of_onBus (h u (by simp)))]
    exact ih fun v hv => h v (by simp [hv])

theorem BusOnly.configFree {l : List MicroOp} (h : BusOnly l) : configFree l := by
  refine fun u hu => ⟨?_, ?_, ?_⟩ <;> rintro rfl <;> simpa [MicroOp.onBus] using h _ hu

theorem BusOnly.head_ne_state {l : List MicroOp} (h : BusOnly l) (b : SeqState) : l.head? ≠ some (.state b) :=
  fun hh => MicroOp.ne_state_of_onBus (h _ (List.mem_of_mem_head? hh)) b rfl

theorem configFree_nil : configFree [] := by simp [configFree]

theorem configFree_state_cons {b : SeqState} {l : List MicroOp} (h : configFree l) : configFree (.state b :: l) := by
  simpa [configFree] using h

theorem configFree.append {l r : List MicroOp} (hl : configFree l) (hr : configFree r) : configFree (l ++ r) := fun u hu =>
  (List.mem_append.1 hu).elim (hl u) (hr u)

theorem configFree.tail {u : MicroOp} {l : List MicroOp} (h : configFree (u :: l)) : configFree l := fun v hv =>
  h v (List.mem_cons_of_mem u hv)

theorem powerUpOps_configFree (t : Params) : configFree (powerUpOps t) := by
  rw [powerUpOps_eq]
  exact configFree_state_cons ((powerUpBusOps_busOnly t).configFree.append (configFree_state_cons configFree_nil))

theorem powerUpOps_chain (t : Params) : stateChain .poweredOff (powerUpOps t) = true := by
  rw [powerUpOps_eq, stateChain_state, stateChain_append_of_busOnly (powerUpBusOps_busOnly t)]
  exact ⟨rfl, rfl⟩

theorem configureOps_chain {l : List MicroOp} (h : stateChain .poweredOff l = true) :
    stateChain .uninit (configureOps ++ l) = true := h

end Sys2Proof.Machine

namespace Sys2Proof.Machine

/-! ### The invariant under the schedule, the host's turn and a fault -/

theorem Inv.beginStep {s : State} (hi : Inv s) : Inv s.beginStep := { hi with }

theorem Inv.withHostIn {s : State} (hi : Inv s) (rest : List HostAccess) : Inv { s with hostIn := rest } := { hi with }

theorem Inv.reply {s : State} (hi : Inv s) (w : Word) : Inv (s.reply w) := { hi with }

theorem Inv.queue_empty {s : State} (hi : Inv s) (hb : s.busy = false) : s.q = [] := by
  by_contra hq
  simp [hi.busy_iff.2 hq] at hb

/-- No cause has bit 15 (R28). -/
theorem FaultCause.mask_bit15 (c : FaultCause) : c.mask.getLsbD 15 = false := by cases c <;> rfl

theorem Inv.raise {s : State} (hi : Inv s) (c : FaultCause) : Inv (s.raise c) :=
  { hi with
    busy_iff := by simp
    quiet := fun _ => rfl
    fault_bit15 := by simp only [State.raise_fault, BitVec.getLsbD_or, hi.fault_bit15, c.mask_bit15, Bool.or_false]
    resetting := fun h => ⟨(hi.resetting h).1, .inl (s.raise_quiescent c)⟩
    config_shape := .inl configFree_nil
    chain := rfl
    leaving := fun _ _ => .inl (s.raise_quiescent c)
    powering := by simp }

theorem State.refuse_quiescent (s : State) : s.refuse.quiescent = true := (State.quiescent_iff _).2 (.inr rfl)

theorem Inv.refuse {s : State} (hi : Inv s) (hb : s.busy = false) : Inv s.refuse :=
  { hi with
    quiet := fun _ => hi.queue_empty hb
    resetting := fun h => ⟨(hi.resetting h).1, .inl s.refuse_quiescent⟩
    leaving := fun _ _ => .inl s.refuse_quiescent }

/-- Away from configure's wait, a running block has no software reset in progress (R127). -/
theorem Inv.not_resetting {s : State} (hi : Inv s) (hn : s.quiescent = false) (hh : s.q.head? ≠ some .waitSwrst) :
    s.swrstBusy = false := by
  by_contra hb
  rcases (hi.resetting (by simpa using hb)).2 with h | h
  · simp [hn] at h
  · exact hh h

/-- Away from the end of configure, a running block in UNINIT is not configured (R130). -/
theorem Inv.disabled_of_uninit {s : State} (hi : Inv s) (hn : s.quiescent = false) (hu : s.seqState = .uninit)
    (hh : s.q.head? ≠ some (.state .poweredOff)) : s.pctrl.enable = false := by
  by_contra he
  rcases hi.leaving hu (by simpa using he) with h | h
  · simp [hn] at h
  · exact hh h

/-- What a queue must meet to be taken into a block that runs nothing: it has no micro-op of configure, or begins with the
whole of it in UNINIT; its transitions are the engine's; and it does not begin past configure (R130, R22). -/
structure Loadable (a : SeqState) (l : List MicroOp) : Prop where
  config : configFree l ∨ (a = .uninit ∧ ∃ r, configFree r ∧ l = configureOps ++ r)
  chain : stateChain a l = true
  head : l.head? ≠ some (.state .poweredOff)

/-- Every request's micro-ops are loadable in the state that expands it. -/
theorem loadable_of_expand {i : Instr} {s : State} {l : List MicroOp} (h : expand i s = some (.ops l)) :
    Loadable s.seqState l := by
  rcases expand_ops_cases h with hl | ⟨hs, rfl⟩ | ⟨hs, rfl⟩ | ⟨hs, rfl⟩
  · refine ⟨.inl hl.configFree, ?_, hl.head_ne_state _⟩
    simpa [stateChain] using stateChain_append_of_busOnly hl s.seqState []
  · exact ⟨.inr ⟨hs, [], configFree_nil, rfl⟩, by rw [hs]; rfl, by simp [configureOps]⟩
  · exact ⟨.inr ⟨hs, _, powerUpOps_configFree _, rfl⟩, by rw [hs]; exact configureOps_chain (powerUpOps_chain _),
      by simp [configureOps]⟩
  · exact ⟨.inl (powerUpOps_configFree _), by rw [hs]; exact powerUpOps_chain _, by simp [powerUpOps]⟩

/-- A block that runs nothing keeps the invariant when it takes a loadable queue (R160). -/
theorem Inv.load {s : State} {l : List MicroOp} (hi : Inv s) (hn : s.quiescent = false) (hb : s.busy = false)
    (hl : Loadable s.seqState l) : Inv { s with q := l, busy := decide (l ≠ []) } := by
  have hq := hi.queue_empty hb
  have hr : s.swrstBusy = false := hi.not_resetting hn (by simp [hq])
  have hd : s.seqState = .uninit → s.pctrl.enable = false := fun hu => hi.disabled_of_uninit hn hu (by simp [hq])
  exact
    { hi with
      busy_iff := by simp
      quiet := fun h => absurd (hn.symm.trans h) Bool.false_ne_true
      resetting := fun h => absurd (hr.symm.trans h) Bool.false_ne_true
      config_shape := hl.config.imp id fun ⟨hu, r, hcf, hlr⟩ => ⟨hu, hd hu, r, hcf, .inl ⟨hlr, hr⟩⟩
      chain := hl.chain
      leaving := fun hu he => absurd ((hd hu).symm.trans he) Bool.false_ne_true
      powering := fun h => absurd h hl.head }

theorem Inv.hostMove {s t : State} (hi : Inv s) (h : HostMove s t) : Inv t := by
  cases h with
  | stay => exact hi
  | reply w => exact hi.reply w
  | accept i l hn hb he => exact hi.load hn hb (loadable_of_expand he)
  | raise c => exact hi.raise c
  | raiseReply w => exact (hi.raise _).reply w
  | refuse hn hb => exact hi.refuse hb

/-! ### The invariant under SEQ's turn -/

section SeqTurn

variable {s : State} {u : MicroOp} {rest : List MicroOp}

theorem Inv.retire_busy_iff (hi : Inv s) (hq : s.q = u :: rest) :
    (if rest = [] then false else s.busy) = true ↔ rest ≠ [] := by
  simp [hi.busy_iff.2 (by simp [hq] : s.q ≠ [])]

/-- A completed micro-op that is no `u_STATE` comes off the queue. -/
theorem Inv.retire (hi : Inv s) (hq : s.q = u :: rest) (hn : s.quiescent = false) (hu : ∀ b, u ≠ .state b)
    (hr : s.swrstBusy = false) (hc : ConfigShape (s.retire rest))
    (hp : rest.head? = some (.state .poweredOff) → s.pctrl.enable = true) : Inv (s.retire rest) :=
  { hi with
    busy_iff := hi.retire_busy_iff hq
    quiet := fun h => absurd (hn.symm.trans h) Bool.false_ne_true
    resetting := fun h => absurd (hr.symm.trans h) Bool.false_ne_true
    config_shape := hc
    chain := by
      have h := hi.chain
      rwa [hq, stateChain_cons_of_ne hu] at h
    leaving := fun h0 he =>
      have hd := hi.disabled_of_uninit hn h0 (by simpa [hq] using hu .poweredOff)
      absurd (hd.symm.trans he) Bool.false_ne_true
    powering := hp }

/-- Configure's first three micro-ops are queued in an unconfigured block alone (R130). -/
theorem Inv.configFree_of_enabled (hi : Inv s) (he : s.pctrl.enable = true) : configFree s.q := by
  rcases hi.config_shape with h | ⟨-, hd, -⟩
  · exact h
  · simp [he] at hd

theorem Inv.configFree_of_state {b : SeqState} (hi : Inv s) (hq : s.q = .state b :: rest) : configFree s.q := by
  rcases hi.config_shape with h | ⟨-, -, r, -, ⟨h, -⟩ | h | ⟨h, -⟩⟩
  · exact h
  all_goals simp [hq, configureOps] at h

/-- A bus micro-op runs in a configured block, with no software reset in progress. -/
theorem Inv.retire_bus (hi : Inv s) (hq : s.q = u :: rest) (hn : s.quiescent = false) (hu : u.onBus = true)
    (he : s.pctrl.enable = true) : Inv (s.retire rest) := by
  have hr : s.swrstBusy = false := by
    by_contra h
    simp [(hi.resetting (by simpa using h)).1] at he
  exact hi.retire hq hn (MicroOp.ne_state_of_onBus hu) hr
    (.inl (hq ▸ hi.configFree_of_enabled he : configFree (u :: rest)).tail) fun _ => he

theorem Inv.setDc {m : Mode} (hi : Inv (s.retire rest)) (hc : s.csN = true) :
    Inv (State.retire { s with dc := some m } rest) :=
  { hi with
    frame_mode := fun h => by simp [hc] at h
    trace_shape := by simpa [hc] using hi.trace_shape }

theorem Inv.openFrame {m : Mode} (hi : Inv (s.retire rest)) (hc : s.csN = true) (hd : s.dc = some m) :
    Inv (State.retire { s with csN := false, trace := s.trace ++ [.frameOpen m] } rest) :=
  { hi with
    flight_framed := fun _ => rfl
    frame_mode := fun _ => by simp [hd]
    trace_shape := by
      have h := hi.trace_shape
      simp only [State.retire_trace, State.retire_csN, hc] at h
      simp [scanTrace_snoc, h, hd, scanEvent] }

theorem Inv.closeFrame (hi : Inv (s.retire rest)) (hc : s.csN = false) (ht : s.txbuf = none) (hs : s.shift = none) :
    Inv (State.retire { s with csN := true, trace := s.trace ++ [.frameClose] } rest) :=
  { hi with
    flight_framed := fun h => by simp [ht, hs] at h
    frame_mode := fun h => by simp at h
    trace_shape := by
      obtain ⟨m, hm⟩ := Option.ne_none_iff_exists'.1 (hi.frame_mode hc)
      have h := hi.trace_shape
      simp only [State.retire_trace, State.retire_csN, hc, hm] at h
      simp [scanTrace_snoc, h, scanEvent] }

theorem Inv.send {v : Byte} (hi : Inv (s.retire rest)) (he : s.pctrl.enable = true) (hc : s.csN = false) :
    Inv (State.retire { s with txbuf := some v, dre := false, txc := false } rest) :=
  { hi with
    dre_iff := by simp
    txc_idle := fun h => by simp at h
    flight_framed := fun _ => hc
    disabled_idle := fun h => by simp [he] at h }

/-- A disabled peripheral's control fields are zero but for SWRST (R30, R31). -/
theorem Inv.disabled_fields (hi : Inv s) (he : s.pctrl.enable = false) :
    s.pctrl = { PCtrl.zero with swrst := s.pctrl.swrst } ∧ s.pbaud = 0 := by
  rcases hi.programmed with ⟨h, -⟩ | h
  · simp [h, PCtrl.programmed] at he
  · exact h

/-- Where configure stands when one of its first three micro-ops is at the head (R130). -/
theorem Inv.configuring (hi : Inv s) (hq : s.q = u :: rest) (hu : ¬configFree (u :: rest)) :
    s.seqState = .uninit ∧ s.pctrl.enable = false ∧ ∃ r, configFree r ∧
      ((u = .swrst ∧ rest = configureOps.drop 1 ++ r) ∨ (u = .waitSwrst ∧ rest = configureOps.drop 2 ++ r) ∨
        (u = .program ∧ rest = configureOps.drop 3 ++ r ∧ s.swrstBusy = false)) := by
  rcases hi.config_shape with h | ⟨h0, he, r, hr, ⟨h, -⟩ | h | ⟨h, hw⟩⟩
  · exact absurd (hq ▸ h) hu
  all_goals refine ⟨h0, he, r, hr, ?_⟩; obtain ⟨rfl, rfl⟩ := List.cons.inj (hq.symm.trans h)
  · exact .inl ⟨rfl, rfl⟩
  · exact .inr (.inl ⟨rfl, rfl⟩)
  · exact .inr (.inr ⟨rfl, rfl, hw⟩)

/-- `u_SWRST` starts the software reset (R126). -/
theorem Inv.swrst (hi : Inv s) (hq : s.q = .swrst :: rest) (hn : s.quiescent = false) :
    Inv (State.retire { s with pctrl := { s.pctrl with swrst := true }, swrstBusy := true } rest) := by
  obtain ⟨hu, he, r, hr, ⟨-, hrest⟩ | ⟨⟨⟩, -⟩ | ⟨⟨⟩, -⟩⟩ := hi.configuring hq (by simp [configFree])
  obtain ⟨hfields, hbaud⟩ := hi.disabled_fields he
  exact
    { hi with
      busy_iff := hi.retire_busy_iff hq
      quiet := fun h => absurd (hn.symm.trans h) Bool.false_ne_true
      programmed := .inr ⟨by rw [hfields]; rfl, hbaud⟩
      resetting := fun _ => ⟨he, .inr (by simp [hrest, configureOps])⟩
      swrst_field := fun _ => rfl
      config_shape := .inr ⟨hu, he, r, hr, .inr (.inl hrest)⟩
      chain := (hq ▸ hi.chain : stateChain s.seqState (.swrst :: rest) = true)
      leaving := fun _ h => by simp [he] at h
      powering := fun h => by simp [hrest, configureOps] at h }

/-- `u_WAIT_SWRST` completes when the software reset is over (R127). -/
theorem Inv.waitSwrst (hi : Inv s) (hq : s.q = .waitSwrst :: rest) (hn : s.quiescent = false)
    (hw : s.swrstBusy = false) : Inv (s.retire rest) := by
  obtain ⟨hu, he, r, hr, ⟨⟨⟩, -⟩ | ⟨-, hrest⟩ | ⟨⟨⟩, -⟩⟩ := hi.configuring hq (by simp [configFree])
  exact hi.retire hq hn (by simp) hw (.inr ⟨hu, he, r, hr, .inr (.inr ⟨hrest, hw⟩)⟩)
    fun h => by simp [hrest, configureOps] at h

/-- `u_PROGRAM` configures the transport, with `u_STATE(POWERED_OFF)` next (R128, R130). -/
theorem Inv.program (hi : Inv s) (hq : s.q = .program :: rest) (hn : s.quiescent = false) :
    Inv (State.retire { s with
      pctrl := { s.pctrl with
        master := true, cpol := false, cpha := false, dord := dordBit s.params.dord, dipo := s.params.dipo,
        rxen := true, enable := true }
      pbaud := programmedBaud s.params
      sck := .low } rest) := by
  obtain ⟨-, he, r, hr, ⟨⟨⟩, -⟩ | ⟨⟨⟩, -⟩ | ⟨-, hrest, hw⟩⟩ := hi.configuring hq (by simp [configFree])
  have hswrst : s.pctrl.swrst = false := by
    by_contra h
    simp [hi.swrst_field (by simpa using h)] at hw
  exact
    { hi with
      busy_iff := hi.retire_busy_iff hq
      quiet := fun h => absurd (hn.symm.trans h) Bool.false_ne_true
      disabled_idle := fun h => by simp at h
      sck_level := rfl
      programmed := .inl ⟨by simp [PCtrl.programmed, hswrst], rfl⟩
      resetting := fun h => by simp [hw] at h
      config_shape := .inl (hrest ▸ configFree_state_cons hr)
      chain := (hq ▸ hi.chain : stateChain s.seqState (.program :: rest) = true)
      configured := fun _ => rfl
      leaving := fun _ _ => .inr (by simp [hrest, configureOps])
      powering := fun _ => rfl }

/-- `u_STATE` makes the transition the chain has next; into POWERED_OFF it finds the transport configured (R163). -/
theorem Inv.state {b : SeqState} (hi : Inv s) (hq : s.q = .state b :: rest) (hn : s.quiescent = false) :
    Inv (State.retire { s with seqState := b } rest) := by
  obtain ⟨hsucc, hchain⟩ := stateChain_state.1 (hq ▸ hi.chain)
  have hnotUninit : b ≠ .uninit := by
    rintro rfl
    cases hs : s.seqState <;> simp [hs, SeqState.succ?] at hsucc
  have he : s.pctrl.enable = true := by
    by_cases hu : s.seqState = .uninit
    · rw [hu] at hsucc
      cases hsucc
      exact hi.powering (by simp [hq])
    · exact hi.configured hu
  exact
    { hi with
      busy_iff := hi.retire_busy_iff hq
      quiet := fun h => absurd (hn.symm.trans h) Bool.false_ne_true
      resetting := fun h => by simp [(hi.resetting h).1] at he
      config_shape := .inl (hq ▸ hi.configFree_of_state hq : configFree (.state b :: rest)).tail
      chain := hchain
      configured := fun _ => he
      leaving := fun h => absurd h hnotUninit
      powering := fun _ => he }

theorem Inv.microDone {s' : State} (hi : Inv s) (hq : s.q = u :: rest) (hn : s.quiescent = false)
    (hd : MicroDone s u s') : Inv (s'.retire rest) := by
  cases hd with
  | swrst => exact hi.swrst hq hn
  | waitSwrst hw => exact hi.waitSwrst hq hn hw
  | program => exact hi.program hq hn
  | setDc m he hc => exact (hi.retire_bus hq hn rfl he).setDc hc
  | openFrame m he hc hd => exact (hi.retire_bus hq hn rfl he).openFrame hc hd
  | closeFrame he hc ht hs => exact (hi.retire_bus hq hn rfl he).closeFrame hc ht hs
  | send v he hc => exact (hi.retire_bus hq hn rfl he).send he hc
  | waitIdle he => exact hi.retire_bus hq hn rfl he
  | state b => exact hi.state hq hn

end SeqTurn

theorem Inv.seqMove {s t : State} (hi : Inv s) (h : SeqMove s t) : Inv t := by
  cases h with
  | stay => exact hi
  | done u rest s' hq hn hd => exact hi.microDone hq hn hd
  | raise u rest c => exact hi.raise c

/-! ### The invariant under SHIFT's turns -/

/-- The software reset finds an unconfigured block, and leaves its peripheral at the reset values (R140). -/
theorem Inv.shReset {s : State} (hi : Inv s) : Inv (shReset s) := by
  rcases shReset_cases s with ⟨-, e⟩ | ⟨hw, e⟩ <;> rw [e]
  · exact hi
  · obtain ⟨he, -⟩ := hi.resetting hw
    exact
      { hi with
        dre_iff := by simp
        txc_idle := fun _ => ⟨rfl, rfl⟩
        flight_framed := fun h => by simp at h
        disabled_idle := fun _ => ⟨rfl, rfl⟩
        sck_level := rfl
        programmed := .inr ⟨rfl, rfl⟩
        resetting := fun h => by simp at h
        swrst_field := fun h => by simp [PCtrl.zero] at h
        config_shape := hi.config_shape.imp id fun ⟨hu, _, r, hr, hq⟩ =>
          ⟨hu, rfl, r, hr, hq.imp (fun h => ⟨h.1, rfl⟩) (Or.imp id fun h => ⟨h.1, rfl⟩)⟩
        configured := fun h => by simp [hi.configured h] at he
        leaving := fun _ h => by simp [PCtrl.zero] at h
        powering := fun h => by simp [hi.powering h] at he }

theorem Inv.shLoad {s : State} (hi : Inv s) : Inv (shLoad s) := by
  rcases shLoad_cases s with ⟨-, e⟩ | ⟨v, he, -, -, ht, e⟩ <;> rw [e]
  · exact hi
  · exact
      { hi with
        dre_iff := by simp
        txc_idle := fun h => by simp [(hi.txc_idle h).1] at ht
        flight_framed := fun _ => hi.flight_framed (.inl (by simp [ht]))
        disabled_idle := fun h => by simp [he] at h }

/-- A byte in the shift register finds the peripheral enabled, so SCK is low between bits (R39, R142). -/
theorem Inv.shBit {s : State} (hi : Inv s) : Inv (shBit s) := by
  rcases shBit_cases s with ⟨-, e⟩ | ⟨r, hs, -, e⟩ <;> rw [e]
  · exact hi
  · have he : s.pctrl.enable = true := by
      by_contra h
      simp [(hi.disabled_idle (by simpa using h)).2] at hs
    exact
      { hi with
        txc_idle := fun h => by simp [(hi.txc_idle h).2] at hs
        flight_framed := fun _ => hi.flight_framed (.inr (by simp [hs]))
        disabled_idle := fun h => by simp [he] at h
        sck_level := by simp [he] }

@[simp] theorem commandEffect_ram (i : Instr) (pn : Panel) : (commandEffect i pn).ram = pn.ram := by cases i <;> rfl

theorem Panel.collect_ram (p : Params) (pn : Panel) (v : Byte) : (pn.collect p v).1.ram = pn.ram := by
  unfold Panel.collect
  split <;> split_ifs <;> rfl

/-- A byte event keeps the display RAM canonical (R71). -/
theorem panelAfter_ram_wf (p : Params) {pn : Panel} (m : Mode) (v : Byte) (h : pn.ram.wf = true) :
    (panelAfter p pn m v).ram.wf = true := by
  cases m with
  | dat => exact Panel.dataWrite_ram_wf v h
  | cmd =>
    have hc : (pn.collect p v).1.ram.wf = true := by rwa [Panel.collect_ram]
    simp only [panelAfter]
    rcases hp : pn.collect p v with ⟨pn', _ | bs⟩ <;> rw [hp] at hc
    · exact hc
    · cases hd : decode p (.ctl bs) with
      | ok i => simpa [hd] using hc
      | error e => simpa [hd] using hc

/-- A completed byte adds its event to the open frame, and TXC rises only where no byte waits (R143). -/
theorem Inv.doneMove {s t : State} (hi : Inv s) (h : DoneMove s t) : Inv t := by
  cases h with
  | stay => exact hi
  | done r m hs hl hd =>
    have hc : s.csN = false := hi.flight_framed (.inr (by simp [hs]))
    exact
      { hi with
        txc_idle := fun h => by
          refine ⟨?_, rfl⟩
          rcases Bool.or_eq_true_iff.1 h with h | h
          · exact (hi.txc_idle h).1
          · exact Option.isNone_iff_eq_none.1 h
        flight_framed := fun _ => hc
        disabled_idle := fun h => ⟨(hi.disabled_idle h).1, rfl⟩
        trace_shape := by
          have h := hi.trace_shape
          simp only [hc, hd] at h
          simp [shDone, scanTrace_snoc, h, hc, hd, scanEvent]
        ram_wf := panelAfter_ram_wf _ _ _ hi.ram_wf }

/-- Settles O44: the invariant is kept by every move of every agent. -/
theorem invariantIsKept : Obligations.InvariantIsKept := by
  intro s t hi h
  obtain ⟨tn, -, hm⟩ := step_move h
  have hb := hi.beginStep
  cases hm with
  | hostIdle => exact hb
  | host a rest t h hm => exact (hb.withHostIn rest).hostMove hm
  | seq t hm => exact hb.seqMove hm
  | shReset => exact hb.shReset
  | shLoad => exact hb.shLoad
  | shBit => exact hb.shBit
  | shDone t hm => exact hb.doneMove hm

end Sys2Proof.Machine

namespace Sys2Proof.Machine

/-! ### The length of a command -/

theorem isPageSelect_iff (op : Byte) : isPageSelect op = true ↔ 0xB0 ≤ op.toNat ∧ op.toNat ≤ 0xB7 := by
  revert op; decide

theorem cmdLen_of_pageSelect (p : Params) {op : Byte} (h : isPageSelect op = true) : cmdLen p op = 1 := by
  simp [cmdLen, h]

theorem cmdLen_columnRange (p : Params) : cmdLen p Config.columnRangeOpcode = 3 := by
  have hs : isPageSelect Config.columnRangeOpcode = false := by decide
  simp [cmdLen, hs]

/-- An opcode that is neither fixed form has the length of the parameter command it heads (R72). -/
theorem cmdLen_of_find_some {p : Params} {op : Byte} {c : List Byte} (hs : isPageSelect op = false)
    (hc : op ≠ Config.columnRangeOpcode) (hf : p.commands.find? (fun c => c.head? == some op) = some c) :
    cmdLen p op = c.length := by
  simp [cmdLen, hs, hc, hf]

theorem cmdLen_of_find_none {p : Params} {op : Byte} (hs : isPageSelect op = false)
    (hc : op ≠ Config.columnRangeOpcode) (hf : p.commands.find? (fun c => c.head? == some op) = none) :
    cmdLen p op = 1 := by
  simp [cmdLen, hs, hc, hf]

/-- A command has at least its opcode byte. -/
theorem cmdLen_pos (p : Params) (op : Byte) : 0 < cmdLen p op := by
  by_cases hs : isPageSelect op = true
  · simp [cmdLen_of_pageSelect p hs]
  by_cases hc : op = Config.columnRangeOpcode
  · subst hc
    simp [cmdLen_columnRange]
  simp only [Bool.not_eq_true] at hs
  cases hf : p.commands.find? (fun c => c.head? == some op) with
  | none => simp [cmdLen_of_find_none hs hc hf]
  | some c =>
    have hhead : c.head? = some op := by simpa using List.find?_some hf
    rw [cmdLen_of_find_some hs hc hf, List.length_pos_iff]
    rintro rfl
    simp at hhead

/-! ### What a completed command does, in the machine and in the fold -/

/-- The panel after the bytes of a completed command: the decoded command's effect, or none (R72, R76). -/
def completedEffect (p : Params) (bs : List Byte) (pn : Panel) : Panel :=
  match decode p (.ctl bs) with
  | .ok i => commandEffect i pn
  | .error _ => pn

theorem completedEffect_ok {p : Params} {bs : List Byte} {i : Instr} (h : decode p (.ctl bs) = .ok i) (pn : Panel) :
    completedEffect p bs pn = commandEffect i pn := by
  simp [completedEffect, h]

theorem decode_pageSelect (p : Params) {op : Byte} (h : isPageSelect op = true) :
    decode p (.ctl [op]) = .ok (.setPage (op.extractLsb' 0 3)) := by
  simp [decode, decodeCtl, cmdLen_of_pageSelect p h, commandOf, h]

theorem decode_columnRange (p : Params) (a b : Byte) :
    decode p (.ctl [Config.columnRangeOpcode, a, b]) = .ok (.setColumnRange a b) := by
  have hs : isPageSelect Config.columnRangeOpcode = false := by decide
  simp [decode, decodeCtl, cmdLen_columnRange, commandOf, hs]

theorem commandEffect_commandOfRole {k : Nat} {op : Byte} {ps : List Byte} {i : Instr}
    (h : commandOfRole k op ps = some i) (pn : Panel) : commandEffect i pn = pn := by
  unfold commandOfRole at h
  split at h <;> cases h <;> rfl

/-- A command that is neither a page select nor a column range has no effect on the panel (R76). -/
theorem completedEffect_other (p : Params) {op : Byte} (hs : isPageSelect op = false)
    (hc : op ≠ Config.columnRangeOpcode) (ps : List Byte) (pn : Panel) : completedEffect p (op :: ps) pn = pn := by
  cases hd : decode p (.ctl (op :: ps)) with
  | error e => simp [completedEffect, hd]
  | ok i =>
    rw [completedEffect_ok hd]
    obtain ⟨op', ps', heq, -, hcmd⟩ := decode_ctl_cases hd
    obtain ⟨rfl, rfl⟩ := List.cons.inj heq
    simp only [commandOf, hs, hc, if_false, Bool.false_eq_true] at hcmd
    split at hcmd
    · exact commandEffect_commandOfRole hcmd pn
    · split_ifs at hcmd
      cases hcmd
      rfl

theorem panelCommand_other {op : Byte} (hs : isPageSelect op = false) (hc : op ≠ Config.columnRangeOpcode)
    (ps : List Byte) (pn : Panel) : panelCommand (op :: ps) pn = pn := by
  have hpage : ¬op.toNat / 8 = 0xB0 / 8 := fun h => by
    rw [(isPageSelect_iff op).2 (by omega)] at hs
    cases hs
  unfold panelCommand
  split
  · next heq => obtain ⟨rfl, -⟩ := List.cons.inj heq; exact if_neg hpage
  · next heq => obtain ⟨rfl, -⟩ := List.cons.inj heq; exact if_neg hc
  · rfl

theorem page_of_pageSelect {op : Byte} : isPageSelect op = true →
    op.extractLsb' 0 3 = BitVec.ofNat 3 (op.toNat - 0xB0) := by
  revert op; decide

/-- The machine's effect of a command with all its bytes is the reference fold's (R73, R74, R76). -/
theorem completedEffect_eq_panelCommand {p : Params} {op : Byte} {ps : List Byte}
    (hl : ps.length + 1 = cmdLen p op) (pn : Panel) : completedEffect p (op :: ps) pn = panelCommand (op :: ps) pn := by
  by_cases hs : isPageSelect op = true
  · rw [cmdLen_of_pageSelect p hs] at hl
    obtain rfl : ps = [] := List.length_eq_zero_iff.1 (by omega)
    have hpage : op.toNat / 8 = 0xB0 / 8 := by have := (isPageSelect_iff op).1 hs; omega
    rw [completedEffect_ok (decode_pageSelect p hs), page_of_pageSelect hs]
    exact (if_pos hpage).symm
  simp only [Bool.not_eq_true] at hs
  by_cases hc : op = Config.columnRangeOpcode
  · subst hc
    obtain ⟨a, b, rfl⟩ : ∃ a b, ps = [a, b] := List.length_eq_two.1 (by rw [cmdLen_columnRange] at hl; omega)
    exact completedEffect_ok (decode_columnRange p a b) pn
  rw [completedEffect_other p hs hc, panelCommand_other hs hc]

/-! ### The parser's bound -/

/-- The parser waits for at least one more byte of its command (R72). -/
def Parse.Waiting (p : Params) : Parse → Prop
  | .idle => True
  | .params op got => got.length + 1 < cmdLen p op

@[simp] theorem panelCommand_parse (bs : List Byte) (pn : Panel) : (panelCommand bs pn).parse = pn.parse := by
  unfold panelCommand
  split
  · split_ifs <;> rfl
  · split_ifs <;> rfl
  · rfl

/-- Every event leaves the parser waiting for a byte of its command, or idle (R72). -/
theorem panelStep_waiting {p : Params} {pn : Panel} (h : pn.parse.Waiting p) (e : Event) :
    (panelStep p pn e).parse.Waiting p := by
  match e with
  | .frameOpen _ | .frameClose | .byte .dat _ => exact h
  | .byte .cmd v =>
    cases hp : pn.parse with
    | idle =>
      have hpos := cmdLen_pos p v
      simp only [panelStep, hp]
      split_ifs with hl
      · simp [hp, Parse.Waiting]
      · simp only [Parse.Waiting, List.length_nil]; omega
    | params op got =>
      simp only [hp, Parse.Waiting] at h
      simp only [panelStep, hp]
      split_ifs with hl
      · simp [Parse.Waiting]
      · simp only [List.length_append, List.length_singleton] at hl
        simp only [Parse.Waiting, List.length_append, List.length_singleton]; omega

theorem panelFold_waiting {p : Params} {pn : Panel} (h : pn.parse.Waiting p) (t : List Event) :
    (panelFold p pn t).parse.Waiting p := by
  induction t generalizing pn with
  | nil => exact h
  | cons e t ih => exact ih (panelStep_waiting h e)

/-! ### A byte event, in the machine and in the fold -/

theorem panelAfter_dat (p : Params) (pn : Panel) (v : Byte) :
    panelAfter p pn .dat v = panelStep p pn (.byte .dat v) := by
  simp only [panelAfter, panelStep, Panel.dataWrite, Panel.nextCol, ramAddr, Config.columns, Nat.mul_comm]

theorem panelAfter_cmd_collecting {p : Params} {pn pn' : Panel} {v : Byte} (h : pn.collect p v = (pn', none)) :
    panelAfter p pn .cmd v = pn' := by
  simp only [panelAfter, h]

theorem panelAfter_cmd_completing {p : Params} {pn pn' : Panel} {v : Byte} {bs : List Byte}
    (h : pn.collect p v = (pn', some bs)) : panelAfter p pn .cmd v = completedEffect p bs pn' := by
  simp only [panelAfter, h]
  rfl

/-- A Command byte moves the machine's parser as the fold's, where the parser waits for it (R72). -/
theorem panelAfter_cmd {p : Params} {pn : Panel} (h : pn.parse.Waiting p) (v : Byte) :
    panelAfter p pn .cmd v = panelStep p pn (.byte .cmd v) := by
  cases hp : pn.parse with
  | idle =>
    have hpos := cmdLen_pos p v
    by_cases hl : cmdLen p v = 1
    · have hcollect : pn.collect p v = (pn, some [v]) := by simp [Panel.collect, hp, hl]
      rw [panelAfter_cmd_completing hcollect, completedEffect_eq_panelCommand (by simp [hl])]
      simp [panelStep, hp, hl]
    · have hcollect : pn.collect p v = ({ pn with parse := .params v [] }, none) := by
        simp [Panel.collect, hp, show ¬cmdLen p v ≤ 1 by omega]
      rw [panelAfter_cmd_collecting hcollect]
      simp [panelStep, hp, hl]
  | params op got =>
    simp only [hp, Parse.Waiting] at h
    by_cases hl : got.length + 1 = cmdLen p op - 1
    · have hcollect : pn.collect p v = ({ pn with parse := .idle }, some (op :: (got ++ [v]))) := by
        simp [Panel.collect, hp, show cmdLen p op ≤ got.length + 2 by omega]
      rw [panelAfter_cmd_completing hcollect, completedEffect_eq_panelCommand (by simp; omega)]
      simp [panelStep, hp, hl]
    · have hcollect : pn.collect p v = ({ pn with parse := .params op (got ++ [v]) }, none) := by
        simp [Panel.collect, hp, show ¬cmdLen p op ≤ got.length + 2 by omega]
      rw [panelAfter_cmd_collecting hcollect]
      simp [panelStep, hp, hl]

theorem panelAfter_eq_panelStep {p : Params} {pn : Panel} (h : pn.parse.Waiting p) (m : Mode) (v : Byte) :
    panelAfter p pn m v = panelStep p pn (.byte m v) := by
  cases m with
  | dat => exact panelAfter_dat p pn v
  | cmd => exact panelAfter_cmd h v

/-! ### The panel follows the trace -/

/-- The second state's panel is the first's after the events by which the second state's trace is longer (R70). -/
def PanelFollows (s t : State) : Prop :=
  ∃ es, t.trace = s.trace ++ es ∧ t.panel = panelFold s.params s.panel es

theorem PanelFollows.of_eq {s t : State} (ht : t.trace = s.trace) (hp : t.panel = s.panel) : PanelFollows s t :=
  ⟨[], by simp [ht], hp⟩

theorem PanelFollows.snoc {s t : State} (e : Event) (ht : t.trace = s.trace ++ [e])
    (hp : t.panel = panelStep s.params s.panel e) : PanelFollows s t :=
  ⟨[e], ht, hp⟩

theorem HostMove.panel_eq {s t : State} (h : HostMove s t) : t.panel = s.panel := by cases h <;> rfl

theorem shReset_panel (s : State) : (shReset s).panel = s.panel := by
  rcases shReset_cases s with ⟨-, e⟩ | ⟨-, e⟩ <;> rw [e]

theorem shLoad_panel (s : State) : (shLoad s).panel = s.panel := by
  rcases shLoad_cases s with ⟨-, e⟩ | ⟨v, -, -, -, -, e⟩ <;> rw [e]

theorem shBit_panel (s : State) : (shBit s).panel = s.panel := by
  rcases shBit_cases s with ⟨-, e⟩ | ⟨r, -, -, e⟩ <;> rw [e]

/-- SEQ's events open and close frames, which the panel does not see (R70). -/
theorem MicroDone.panelFollows {s s' : State} {u : MicroOp} (hd : MicroDone s u s') : PanelFollows s s' := by
  cases hd with
  | openFrame m => exact .snoc (.frameOpen m) rfl rfl
  | closeFrame => exact .snoc .frameClose rfl rfl
  | _ => exact .of_eq rfl rfl

theorem SeqMove.panelFollows {s t : State} (h : SeqMove s t) : PanelFollows s t := by
  cases h with
  | stay => exact .of_eq rfl rfl
  | done u rest s' hq hn hd => exact hd.panelFollows
  | raise => exact .of_eq rfl rfl

theorem DoneMove.panelFollows {s t : State} (hw : s.panel.parse.Waiting s.params) (h : DoneMove s t) :
    PanelFollows s t := by
  cases h with
  | stay => exact .of_eq rfl rfl
  | done r m => exact .snoc (.byte m r.value) rfl (panelAfter_eq_panelStep hw m r.value)

/-- Every step runs the panel over the event it appends, if it appends one (R70). -/
theorem step_panelFollows {s t : State} (hw : s.panel.parse.Waiting s.params) (h : step s = .next t) :
    PanelFollows s t := by
  obtain ⟨tn, -, hm⟩ := step_move h
  cases hm with
  | hostIdle => exact .of_eq rfl rfl
  | host a rest t h hm => exact .of_eq hm.trace_eq hm.panel_eq
  | seq t hm => exact hm.panelFollows
  | shReset => exact .of_eq (shReset_trace _) (shReset_panel _)
  | shLoad => exact .of_eq (shLoad_trace _) (shLoad_panel _)
  | shBit => exact .of_eq (shBit_trace _) (shBit_panel _)
  | shDone t hm => exact hm.panelFollows (s := s.beginStep) hw

theorem Panel.powerUp_waiting (p : Params) : Panel.powerUp.parse.Waiting p := trivial

theorem panelOf_waiting (p : Params) (t : List Event) : (panelOf p t).parse.Waiting p :=
  panelFold_waiting (Panel.powerUp_waiting p) t

theorem panelOf_append (p : Params) (l es : List Event) : panelOf p (l ++ es) = panelFold p (panelOf p l) es :=
  List.foldl_append

/-- Settles O47: a panel that is the fold of the trace has a parser that waits for its next byte, and from there each
step runs the panel over the event it appends. -/
theorem panelIsFoldOfTrace : Obligations.PanelIsFoldOfTrace := by
  refine ⟨fun _ => rfl, fun s t hs h => ?_⟩
  obtain ⟨es, htrace, hpanel⟩ := step_panelFollows (hs ▸ panelOf_waiting s.params s.trace) h
  rw [hpanel, htrace, parametersAreConstant s t h, panelOf_append, ← hs]

end Sys2Proof.Machine

namespace Sys2Proof.Machine

/-! ### Command lengths under well-formed tables -/

/-- No parameter command begins with the opcode of a fixed form, and no two with the same byte (R200). -/
theorem Params.wf_opcodes {p : Params} (h : p.wf = true) :
    p.opcodes.Nodup ∧ ∀ op ∈ p.opcodes, isPageSelect op = false ∧ op ≠ Config.columnRangeOpcode := by
  simp only [Params.wf, Params.tablesWf, Bool.and_eq_true, decide_eq_true_eq, List.all_eq_true, Bool.not_eq_true',
    bne_iff_ne] at h
  obtain ⟨⟨⟨⟨-, hnodup⟩, hall⟩, -⟩, -⟩ := h
  exact ⟨hnodup, hall⟩

theorem Params.mem_opcodes {p : Params} {c : List Byte} {op : Byte} (hc : c ∈ p.commands) (h : c.head? = some op) :
    op ∈ p.opcodes := List.mem_filterMap.2 ⟨c, hc, h⟩

/-- Where the first bytes are distinct, a search by first byte finds the one command that has it. -/
theorem find_head_eq_some {l : List (List Byte)} {c : List Byte} {op : Byte} (hn : (l.filterMap List.head?).Nodup)
    (hc : c ∈ l) (h : c.head? = some op) : l.find? (fun c => c.head? == some op) = some c := by
  induction l with
  | nil => simp at hc
  | cons d l ih =>
    by_cases hd : d.head? = some op
    · rw [List.filterMap_cons_some hd, List.nodup_cons] at hn
      have hdc : c = d := by
        rcases List.mem_cons.1 hc with heq | hmem
        · exact heq
        · exact absurd (List.mem_filterMap.2 ⟨c, hmem, h⟩) hn.1
      simp [hdc, hd]
    · have hmem : c ∈ l := (List.mem_cons.1 hc).resolve_left fun heq => hd (heq ▸ h)
      have hn' : (l.filterMap List.head?).Nodup := hn.sublist ((List.sublist_cons_self d l).filterMap _)
      rw [List.find?_cons_of_neg (by simpa using hd)]
      exact ih hn' hmem

/-- Settles O5: the two fixed forms are tried first, and distinct first bytes make the search find the one parameter
command that an opcode heads. -/
theorem commandLengths : Obligations.CommandLengths := by
  intro p v hwf
  obtain ⟨hnodup, hfixed⟩ := Params.wf_opcodes hwf
  refine ⟨fun h => cmdLen_of_pageSelect p ((isPageSelect_iff v).2 h), cmdLen_columnRange p, fun c hc hv => ?_,
    fun hs hc hnone => ?_⟩
  · obtain ⟨hs, hcol⟩ := hfixed v (Params.mem_opcodes hc hv)
    exact cmdLen_of_find_some hs hcol (find_head_eq_some hnodup hc hv)
  · have hs' : isPageSelect v = false := by simpa using mt (isPageSelect_iff v).1 hs
    exact cmdLen_of_find_none hs' hc (List.find?_eq_none.2 (by simpa using hnone))

/-! ### The events still to come -/

theorem inFlightEvents_eq_nil {s : State} (ht : s.txbuf = none) (hs : s.shift = none) : inFlightEvents s = [] := by
  unfold inFlightEvents
  split <;> simp [inFlight, ht, hs]

theorem inFlightEvents_of_dc {s : State} {m : Mode} (h : s.dc = some m) :
    inFlightEvents s = (inFlight s).map (Event.byte m) := by
  simp [inFlightEvents, h]

/-- Outside a frame nothing is in flight (R136, R135). -/
theorem Inv.idle_of_released {s : State} (hi : Inv s) (hc : s.csN = true) : s.txbuf = none ∧ s.shift = none := by
  by_contra h
  have hlow := hi.flight_framed (by tauto)
  simp [hlow] at hc

@[simp] theorem queueEvents_closeFrame (d : Option Mode) (r : List MicroOp) :
    queueEvents d (.select false :: r) = .frameClose :: queueEvents d r := by cases d <;> rfl

/-- Two states with the same trace, the same bytes in flight under the same mode, and the same queue have the same trace
to come. -/
theorem projectedTrace_congr {s t : State} (ht : t.trace = s.trace) (hf : inFlight t = inFlight s) (hd : t.dc = s.dc)
    (hq : t.q = s.q) : projectedTrace t = projectedTrace s := by
  simp only [projectedTrace, inFlightEvents, ht, hf, hd, hq]

/-- With nothing in flight, the trace to come is the trace and the queue's events. -/
theorem projectedTrace_congr_of_idle {s t : State} (ht : s.txbuf = none) (hs : s.shift = none) (ht' : t.txbuf = s.txbuf)
    (hs' : t.shift = s.shift) (h : t.trace ++ queueEvents t.dc t.q = s.trace ++ queueEvents s.dc s.q) :
    projectedTrace t = projectedTrace s := by
  simpa [projectedTrace, inFlightEvents_eq_nil ht hs, inFlightEvents_eq_nil (ht'.trans ht) (hs'.trans hs)] using h

/-- A byte handed to the empty transmit register goes from the queue's events to those of the bytes in flight. -/
theorem projectedTrace_send {s : State} {m : Mode} {v : Byte} {rest : List MicroOp} (hd : s.dc = some m)
    (ht : s.txbuf = none) (hq : s.q = .send v :: rest) :
    projectedTrace (State.retire { s with txbuf := some v, dre := false, txc := false } rest) = projectedTrace s := by
  simp [projectedTrace, inFlightEvents, inFlight, queueEvents, hd, ht, hq]

/-- A completed micro-op puts its event on the trace or in flight, in the place it had in the queue (R131, R138). -/
theorem MicroDone.projectedTrace_eq {s s' : State} {u : MicroOp} {rest : List MicroOp} (hi : Inv s)
    (hq : s.q = u :: rest) (hd : MicroDone s u s') : projectedTrace (s'.retire rest) = projectedTrace s := by
  cases hd with
  | setDc m he hc =>
    obtain ⟨ht, hs⟩ := hi.idle_of_released hc
    exact projectedTrace_congr_of_idle ht hs rfl rfl (by simp [queueEvents, hq])
  | openFrame m he hc hd =>
    obtain ⟨ht, hs⟩ := hi.idle_of_released hc
    exact projectedTrace_congr_of_idle ht hs rfl rfl (by simp [queueEvents, hq, hd])
  | closeFrame he hc ht hs => exact projectedTrace_congr_of_idle ht hs rfl rfl (by simp [hq])
  | send v he hc hdre =>
    obtain ⟨m, hm⟩ := Option.ne_none_iff_exists'.1 (hi.frame_mode hc)
    exact projectedTrace_send hm (hi.dre_iff.1 hdre) hq
  | swrst | waitSwrst | program | waitIdle | state =>
    simp [projectedTrace, inFlightEvents, inFlight, queueEvents, hq]

theorem SeqMove.projectedTrace_eq {s t : State} (hi : Inv s) (h : SeqMove s t) (hf : t.fault = s.fault) :
    projectedTrace t = projectedTrace s := by
  cases h with
  | stay => rfl
  | done u rest s' hq hn hd => exact hd.projectedTrace_eq hi hq
  | raise u rest c hq hn hr =>
    have hzero : s.fault = 0 := ((State.quiescent_false_iff s).1 hn).1
    exact absurd (hf.trans hzero) (FaultCause.or_mask_ne_zero s.fault c)

/-- The software reset drops no byte: it finds nothing in flight (R140). -/
theorem projectedTrace_shReset {s : State} (hi : Inv s) : projectedTrace (shReset s) = projectedTrace s := by
  rcases shReset_cases s with ⟨-, e⟩ | ⟨hw, e⟩ <;> rw [e]
  obtain ⟨ht, hs⟩ := hi.disabled_idle (hi.resetting hw).1
  exact projectedTrace_congr rfl (by simp [inFlight, ht, hs]) rfl rfl

theorem projectedTrace_shLoad (s : State) : projectedTrace (shLoad s) = projectedTrace s := by
  rcases shLoad_cases s with ⟨-, e⟩ | ⟨v, -, -, hs, ht, e⟩ <;> rw [e]
  exact projectedTrace_congr rfl (by simp [inFlight, hs, ht]) rfl rfl

theorem projectedTrace_shBit (s : State) : projectedTrace (shBit s) = projectedTrace s := by
  rcases shBit_cases s with ⟨-, e⟩ | ⟨r, hs, -, e⟩ <;> rw [e]
  exact projectedTrace_congr rfl (by simp [inFlight, hs, ShiftReg.pop]) rfl rfl

/-- A completed byte goes from the bytes in flight, where it was the first, to the end of the trace (R143). -/
theorem DoneMove.projectedTrace_eq {s t : State} (h : DoneMove s t) : projectedTrace t = projectedTrace s := by
  cases h with
  | stay => rfl
  | done r m hs hl hd => simp [projectedTrace, inFlightEvents, inFlight, shDone, hs, hd]

/-- Settles O49: each event only moves on from the queue to the bytes in flight and from there to the trace; a fault,
which empties the queue, would change the fault set. -/
theorem projectedTraceIsConstant : Obligations.ProjectedTraceIsConstant := by
  intro s t hi hin h hf
  obtain ⟨tn, -, hm⟩ := step_move h
  have hb := hi.beginStep
  change projectedTrace t = projectedTrace s.beginStep
  cases hm with
  | hostIdle => rfl
  | host a rest t h => simp [hin] at h
  | seq t hm => exact hm.projectedTrace_eq hb hf
  | shReset => exact projectedTrace_shReset hb
  | shLoad => exact projectedTrace_shLoad _
  | shBit => exact projectedTrace_shBit _
  | shDone t hm => exact hm.projectedTrace_eq

/-! ### The host's accesses -/

theorem hostAccess_writeReq (w : Word) (s : State) : hostAccess ⟨0, 4, .write w⟩ s = writeReq w s := by
  simp [hostAccess, HostAccess.legal]

theorem writeReq_of_decode {w : Word} {i : Instr} (h : decodeReq w = .ok i) (s : State) : writeReq w s = exec i s := by
  simp [writeReq, h]

/-- Settles O6: a four-byte write to REQ is legal, and is the write of its word. -/
theorem stepRunsRequest : Obligations.StepRunsRequest := by
  intro s w rest h
  have hstep : step s = writeReq w (afterAccess s rest) := by rw [step_of_hostAt h, hostAccess_writeReq]
  exact ⟨hstep, fun i hi => hstep.trans (writeReq_of_decode hi _)⟩

theorem hostAccess_illegalRead {a : HostAccess} (hl : a.legal = false) (ho : a.op = .read) (s : State) :
    hostAccess a s = .next ((s.raise .illegalAccess).reply (Config.readDraw s.tick)) := by
  simp [hostAccess, hl, ho]

/-- The two low bits of an offset are zero only at a multiple of 4. -/
theorem offset_aligned {o : BitVec 4} : o.extractLsb' 0 2 = 0 → o.toNat % 4 = 0 := by
  revert o; decide

/-- An access of a wrong width, offset or direction is not legal (R62). -/
theorem HostAccess.legal_eq_false {a : HostAccess}
    (h : a.width ≠ 4 ∨ a.off.toNat % 4 ≠ 0 ∨ a.off = 0xC ∨ (a.op ≠ .read ∧ (a.off = 0x4 ∨ a.off = 0x8))) :
    a.legal = false := by
  by_contra hl
  simp only [HostAccess.legal, Bool.not_eq_false, Bool.and_eq_true, Bool.or_eq_true, beq_iff_eq, bne_iff_ne] at hl
  obtain ⟨⟨⟨hwidth, halign⟩, hC⟩, hdir⟩ := hl
  rcases h with h | h | h | ⟨hop, hoff⟩
  · exact h hwidth
  · exact h (offset_aligned halign)
  · exact hC h
  · obtain ⟨h4, h8⟩ := hdir.resolve_left hop
    exact hoff.elim h4 h8

/-- Settles O35: an illegal access is the fault action, and a read of this kind returns its draw besides. -/
theorem illegalAccessesFault : Obligations.IllegalAccessesFault := by
  intro s a rest h hbad
  have hl := HostAccess.legal_eq_false hbad
  refine ⟨fun v ho => ?_, fun ho => ⟨Config.readDraw (afterAccess s rest).tick, ?_⟩⟩
  · rw [step_of_hostAt h, hostAccess_illegalWrite hl ho]
    rfl
  · rw [step_of_hostAt h, hostAccess_illegalRead hl ho]
    rfl

/-! ### Controller commands at the panel -/

/-- The two commands that write the cursor or the window (R73, R74). -/
def movesCursor : Instr → Bool
  | .setPage _ | .setColumnRange _ _ => true
  | _ => false

theorem commandEffect_of_not_movesCursor {i : Instr} (h : movesCursor i = false) (pn : Panel) :
    commandEffect i pn = pn := by
  unfold commandEffect
  split
  · cases h
  · cases h
  · rfl

/-- A controller command that does not move the cursor leaves the whole state as it was (R76). -/
theorem exec_of_not_movesCursor {i : Instr} (hr : isRequest i = false) (hm : movesCursor i = false) (s : State) :
    exec i s = .next s := by
  rw [exec_command hr, commandEffect_of_not_movesCursor hm]

theorem setWidth_seven_eq_extractLsb' (v : Byte) : v.setWidth 7 = v.extractLsb' 0 7 := BitVec.eq_of_toNat_eq rfl

/-- Settles O36: the effects of the two commands on the panel; the cut to seven bits keeps the low seven. -/
theorem cursorCommandsMoveCursor : Obligations.CursorCommandsMoveCursor := by
  intro s
  refine ⟨fun p => exec_command rfl s, fun a b => ?_⟩
  rw [exec_command rfl s]
  simp only [commandEffect, Panel.setColumnRange, setWidth_seven_eq_extractLsb']

/-- Settles O37: none of the fifteen moves the cursor. -/
theorem otherCommandsDoNothing : Obligations.OtherCommandsDoNothing := by
  intro s
  have still {i : Instr} (hr : isRequest i = false) (hm : movesCursor i = false) : exec i s = .next s :=
    exec_of_not_movesCursor hr hm s
  exact ⟨still rfl rfl, fun _ => still rfl rfl, fun _ => still rfl rfl, fun _ => still rfl rfl,
    fun _ => still rfl rfl, fun _ => still rfl rfl, still rfl rfl, still rfl rfl, fun _ => still rfl rfl,
    fun _ => still rfl rfl, fun _ => still rfl rfl, fun _ => still rfl rfl, still rfl rfl, fun _ => still rfl rfl,
    fun _ => still rfl rfl⟩

end Sys2Proof.Machine

namespace Sys2Proof.Machine

/-! ### Request words and their fields (R26, R93) -/

/-- The three fields of a request word do not overlap: the word is their sum (R100). -/
theorem reqWord_toNat (op : BitVec 4) (a0 a1 : Byte) :
    (reqWord op a0 a1).toNat = op.toNat + 2 ^ 8 * a0.toNat + 2 ^ 16 * a1.toNat := by
  have hop : op.toNat < 2 ^ 8 := by omega
  have hlow : a0.toNat <<< 8 + op.toNat < 2 ^ 16 := by rw [Nat.shiftLeft_eq]; omega
  have hword : (reqWord op a0 a1).toNat = a1.toNat <<< 16 ||| (a0.toNat <<< 8 ||| op.toNat) := by
    have h0 : a0.toNat <<< 8 % 2 ^ 32 = a0.toNat <<< 8 := Nat.mod_eq_of_lt (by rw [Nat.shiftLeft_eq]; omega)
    have h1 : a1.toNat <<< 16 % 2 ^ 32 = a1.toNat <<< 16 := Nat.mod_eq_of_lt (by rw [Nat.shiftLeft_eq]; omega)
    simp only [reqWord, BitVec.toNat_or, BitVec.toNat_shiftLeft,
      BitVec.toNat_setWidth_of_le (show 4 ≤ 32 by decide), BitVec.toNat_setWidth_of_le (show 8 ≤ 32 by decide), h0, h1,
      Nat.lor_comm]
  rw [hword, ← Nat.shiftLeft_add_eq_or_of_lt hop, ← Nat.shiftLeft_add_eq_or_of_lt hlow]
  simp only [Nat.shiftLeft_eq]
  omega

theorem reqOp_toNat (w : Word) : (reqOp w).toNat = w.toNat % 2 ^ 4 := by
  simp [reqOp]

theorem reqArg0_toNat (w : Word) : (reqArg0 w).toNat = w.toNat / 2 ^ 8 % 2 ^ 8 := by
  simp [reqArg0, Nat.shiftRight_eq_div_pow]

theorem reqArg1_toNat (w : Word) : (reqArg1 w).toNat = w.toNat / 2 ^ 16 % 2 ^ 8 := by
  simp [reqArg1, Nat.shiftRight_eq_div_pow]

theorem reservedClear_iff (w : Word) : reservedClear w = true ↔ w.toNat / 2 ^ 4 % 2 ^ 4 = 0 ∧ w.toNat / 2 ^ 24 = 0 := by
  simp only [reservedClear, Bool.and_eq_true, beq_iff_eq, ← BitVec.toNat_inj, BitVec.extractLsb'_toNat,
    Nat.shiftRight_eq_div_pow, BitVec.ofNat_eq_ofNat, BitVec.toNat_ofNat]
  omega

@[simp] theorem reqOp_reqWord (op : BitVec 4) (a0 a1 : Byte) : reqOp (reqWord op a0 a1) = op := by
  apply BitVec.eq_of_toNat_eq
  rw [reqOp_toNat, reqWord_toNat]
  omega

@[simp] theorem reqArg0_reqWord (op : BitVec 4) (a0 a1 : Byte) : reqArg0 (reqWord op a0 a1) = a0 := by
  apply BitVec.eq_of_toNat_eq
  rw [reqArg0_toNat, reqWord_toNat]
  omega

@[simp] theorem reqArg1_reqWord (op : BitVec 4) (a0 a1 : Byte) : reqArg1 (reqWord op a0 a1) = a1 := by
  apply BitVec.eq_of_toNat_eq
  rw [reqArg1_toNat, reqWord_toNat]
  omega

@[simp] theorem reservedClear_reqWord (op : BitVec 4) (a0 a1 : Byte) : reservedClear (reqWord op a0 a1) = true := by
  rw [reservedClear_iff, reqWord_toNat]
  omega

/-- A word with its reserved bits zero is made of its three fields (R96). -/
theorem reqWord_fields {w : Word} (h : reservedClear w = true) : reqWord (reqOp w) (reqArg0 w) (reqArg1 w) = w := by
  obtain ⟨hlow, hhigh⟩ := (reservedClear_iff w).1 h
  apply BitVec.eq_of_toNat_eq
  rw [reqWord_toNat, reqOp_toNat, reqArg0_toNat, reqArg1_toNat]
  omega

/-- A word is zero iff its reserved bits and its three fields are. -/
theorem word_eq_zero_iff (w : Word) :
    w = 0 ↔ reservedClear w = true ∧ reqOp w = 0 ∧ reqArg0 w = 0 ∧ reqArg1 w = 0 := by
  constructor
  · rintro rfl
    decide
  · rintro ⟨hclear, hop, h0, h1⟩
    rw [← reqWord_fields hclear, hop, h0, h1]
    rfl

theorem decodeReq_reqWord (op : BitVec 4) (a0 a1 : Byte) : decodeReq (reqWord op a0 a1) = decodeOp op a0 a1 := by
  simp [decodeReq]

/-! ### Requests: decoding and encoding are inverse -/

theorem decode_encode_request (p : Params) {i : Instr} (h : isRequest i = true) : decode p (encode p i) = .ok i := by
  cases i with
  | configure | waitIdle | init | sendByte | setAddress | clear | putChar | test => exact decodeReq_reqWord _ _ _
  | select a => cases a <;> exact decodeReq_reqWord _ _ _
  | setMode m => cases m <;> exact decodeReq_reqWord _ _ _
  | _ => cases h

theorem bitArg_of_operandClear {a : Byte} : a.extractLsb' 1 7 = 0 → bitArg (a.getLsbD 0) = a := by
  revert a; decide

theorem bitOfMode_modeOfBit (b : Bool) : bitOfMode (modeOfBit b) = b := by cases b <;> rfl

/-- A decoded request encodes to the word of its fields: the must-be-zero bits the decoder checked are those the encoder
leaves zero, the high seven of a one-bit operand among them (R92, R93). -/
theorem encode_of_decodeOp (p : Params) {op : BitVec 4} {a0 a1 : Byte} {i : Instr} (h : decodeOp op a0 a1 = .ok i) :
    encode p i = .req (reqWord op a0 a1) := by
  have word {k : Nat} (hk : op.toNat = k) (b0 b1 : Byte) :
      Encoding.req (reqWord (BitVec.ofNat 4 k) b0 b1) = .req (reqWord op b0 b1) := by
    rw [← hk, BitVec.ofNat_toNat, BitVec.setWidth_eq]
  rcases decodeOp_cases h with ⟨hk, rfl, rfl, rfl⟩ | ⟨hk, hbit, rfl, rfl⟩ | ⟨hk, hbit, rfl, rfl⟩ | ⟨hk, rfl, rfl⟩ |
    ⟨hk, rfl, rfl, rfl⟩ | ⟨hk, rfl, rfl, rfl⟩ | ⟨hk, rfl⟩ | ⟨hk, rfl, rfl⟩ | ⟨hk, rfl, rfl⟩ | ⟨hk, rfl, rfl⟩
  case inr.inl => rw [encode, bitArg_of_operandClear hbit]; exact word hk _ _
  case inr.inr.inl => rw [encode, bitOfMode_modeOfBit, bitArg_of_operandClear hbit]; exact word hk _ _
  all_goals exact word hk _ _

/-- A legal request word is the encoding of its request (R96). -/
theorem encode_of_decodeReq (p : Params) {w : Word} {i : Instr} (h : decodeReq w = .ok i) : encode p i = .req w := by
  unfold decodeReq at h
  split at h
  · next hclear => rw [encode_of_decodeOp p h, reqWord_fields hclear]
  · cases h

/-! ### Which words are illegal -/

@[simp] theorem exists_operandsClear_eq_error (b : Bool) (i : Instr) :
    (∃ e, operandsClear b i = .error e) ↔ b = false := by
  cases b <;> simp [operandsClear]

/-- Under the mask of a one-bit operand (R93): all bits but bit 0. -/
theorem and_oneBitMask_eq_zero_iff (a : Byte) : a &&& 254#8 = 0#8 ↔ a.extractLsb' 1 7 = 0#7 := by
  revert a; decide

/-- Under the mask of an unused operand field (R93). -/
theorem and_fullMask (a : Byte) : a &&& 255#8 = a := BitVec.and_allOnes

/-- The OPs no request has (R91, R94). -/
def unassignedOps : List (BitVec 4) := [0x0#4, 0x6#4, 0x7#4, 0xD#4, 0xE#4, 0xF#4]

/-- R94 on a word's fields: the operand fields are checked under R93's mask of the OP. -/
theorem exists_decodeOp_eq_error (op : BitVec 4) (a0 a1 : Byte) : (∃ e, decodeOp op a0 a1 = .error e) ↔
    op ∈ unassignedOps ∨ ¬(a0 &&& reqArg0 (mustBeZero op) = 0 ∧ a1 &&& reqArg1 (mustBeZero op) = 0) := by
  obtain ⟨k⟩ := op
  fin_cases k <;>
    simp [decodeOp, unassignedOps, mustBeZero, reqArg0, reqArg1, and_fullMask, and_oneBitMask_eq_zero_iff]

theorem reservedClear_and_mustBeZero (w : Word) (op : BitVec 4) :
    reservedClear (w &&& mustBeZero op) = reservedClear w := by
  have hlow : (mustBeZero op).extractLsb' 4 4 = BitVec.allOnes 4 := by revert op; decide
  have hhigh : (mustBeZero op).extractLsb' 24 8 = BitVec.allOnes 8 := by revert op; decide
  simp only [reservedClear, BitVec.extractLsb'_and, hlow, hhigh, BitVec.and_allOnes]

theorem reqOp_and_mustBeZero (w : Word) (op : BitVec 4) : reqOp (w &&& mustBeZero op) = 0 := by
  have hop : (mustBeZero op).extractLsb' 0 4 = 0 := by revert op; decide
  simp only [reqOp, BitVec.extractLsb'_and, hop]
  exact BitVec.and_zero

/-- A word has none of an OP's must-be-zero bits set iff its reserved bits are zero and its operand fields are under the
OP's mask (R93). -/
theorem and_mustBeZero_eq_zero_iff (w : Word) (op : BitVec 4) : w &&& mustBeZero op = 0 ↔ reservedClear w = true ∧
    reqArg0 w &&& reqArg0 (mustBeZero op) = 0 ∧ reqArg1 w &&& reqArg1 (mustBeZero op) = 0 := by
  rw [word_eq_zero_iff, reservedClear_and_mustBeZero, reqOp_and_mustBeZero]
  simp only [reqArg0, reqArg1, BitVec.extractLsb'_and, true_and]

/-- The illegal words are those R94 names. -/
theorem exists_decodeReq_eq_error (w : Word) :
    (∃ e, decodeReq w = .error e) ↔ reqOp w ∈ unassignedOps ∨ w &&& mustBeZero (reqOp w) ≠ 0 := by
  rw [Ne, and_mustBeZero_eq_zero_iff, decodeReq]
  cases hclear : reservedClear w with
  | false => simp
  | true => simp [exists_decodeOp_eq_error]

/-- An illegal word's write is the fault action, whose other writes find BUSY and the queue at rest (R94, R232). -/
theorem writeReq_illegal {w : Word} {e : DecodeError} {s : State} (h : decodeReq w = .error e) (hs : Accepting s)
    (hq : s.q = []) : writeReq w s = .next { s with fault := 1 } := by
  have hwrite : writeReq w s = .next (s.raise .illegalRequest) := by
    simp [writeReq, h, rejectWord, acceptRequest_fault _ hs]
  obtain ⟨hfault, -, hbusy⟩ := hs
  have hmask : 0 ||| FaultCause.illegalRequest.mask = 1 := by decide
  rw [hwrite, State.raise, hfault, hmask, ← hq, ← hbusy]

/-- Settles O3: R93's mask is checked field by field, and an illegal word's write is the fault action. -/
theorem illegalWordsFault : Obligations.IllegalWordsFault :=
  ⟨exists_decodeReq_eq_error, fun _ _ _ => writeReq_illegal⟩

/-! ### Controller commands: the roles of opcodes (R200) -/

theorem roleOpcode_of_head {p : Params} {k : Nat} {c : List Byte} {op : Byte} (hc : p.commands[k]? = some c)
    (h : c.head? = some op) : roleOpcode p k = op := by
  simp [roleOpcode, List.getD_eq_getElem?_getD, hc, List.headD_eq_head?_getD, h]

/-- An opcode of a role heads the parameter command of that role. -/
theorem command_of_roleOf {p : Params} {op : Byte} {k : Nat} (h : roleOf p op = some k) :
    ∃ c, p.commands[k]? = some c ∧ c.head? = some op := by
  obtain ⟨hk, hhead, -⟩ := List.findIdx?_eq_some_iff_getElem.1 h
  exact ⟨p.commands[k], List.getElem?_eq_getElem hk, by simpa using hhead⟩

theorem roleOpcode_of_roleOf {p : Params} {op : Byte} {k : Nat} (h : roleOf p op = some k) : roleOpcode p k = op := by
  obtain ⟨c, hc, hhead⟩ := command_of_roleOf h
  exact roleOpcode_of_head hc hhead

/-- Under well-formed tables a first byte has one role (R200). -/
theorem roleOf_of_head {p : Params} (hwf : p.wf = true) {k : Nat} {c : List Byte} {op : Byte}
    (hc : p.commands[k]? = some c) (h : c.head? = some op) : roleOf p op = some k := by
  obtain ⟨hk, rfl⟩ := List.getElem?_eq_some_iff.1 hc
  have hdistinct := List.pairwise_iff_getElem.1 (List.pairwise_filterMap.1 (Params.wf_opcodes hwf).1)
  refine List.findIdx?_eq_some_iff_getElem.2 ⟨hk, by simpa using h, fun j hj hop => ?_⟩
  exact hdistinct j k (hj.trans hk) hk hj op (by simpa using hop) op h rfl

theorem cmdLen_of_command {p : Params} (hwf : p.wf = true) {c : List Byte} {op : Byte} (hc : c ∈ p.commands)
    (h : c.head? = some op) : cmdLen p op = c.length := by
  obtain ⟨-, -, hheads, -⟩ := commandLengths p op hwf
  exact hheads c hc h

theorem commandOf_of_role {p : Params} {op : Byte} {k : Nat} (hs : isPageSelect op = false)
    (hc : op ≠ Config.columnRangeOpcode) (hk : roleOf p op = some k) (ps : List Byte) :
    commandOf p op ps = commandOfRole k op ps := by
  simp [commandOf, hs, hc, hk]

theorem commandOf_of_no_role {p : Params} {op : Byte} (hs : isPageSelect op = false)
    (hc : op ≠ Config.columnRangeOpcode) (hk : roleOf p op = none) (ps : List Byte) :
    commandOf p op ps = if op.extractLsb' 6 2 = startLineHigh p ∧ ps = [] then
      some (.setStartLine (op.extractLsb' 0 6)) else none := by
  simp [commandOf, hs, hc, hk]

/-- The bytes of one command, with as many parameter bytes as its opcode asks for, decode to it. -/
theorem decode_of_commandOf {p : Params} {op : Byte} {ps : List Byte} {i : Instr} (hl : cmdLen p op = ps.length + 1)
    (hc : commandOf p op ps = some i) : decode p (.ctl (op :: ps)) = .ok i := by
  simp [decode, decodeCtl, hl, hc]

/-- The lengths of the fifteen parameter commands, by role (R200). -/
theorem commands_map_length {p : Params} (hwf : p.wf = true) :
    p.commands.map List.length = Config.initLengths ++ [p.addrModeCmd.length, p.displayOnCmd.length] := by
  simp only [Params.wf, Params.tablesWf, Bool.and_eq_true, beq_iff_eq] at hwf
  obtain ⟨⟨⟨⟨⟨⟨hlengths, -⟩, -⟩, -⟩, -⟩, -⟩, -⟩ := hwf
  simp [Params.commands, hlengths]

/-- The opcode of a role with as many parameter bytes as the role's table entry decodes to the command of the role. -/
theorem decode_of_role {p : Params} (hwf : p.wf = true) {k : Nat} {ps : List Byte} {i : Instr}
    (hlen : (p.commands.map List.length)[k]? = some (ps.length + 1))
    (hi : commandOfRole k (roleOpcode p k) ps = some i) : decode p (.ctl (roleOpcode p k :: ps)) = .ok i := by
  rw [List.getElem?_map, Option.map_eq_some_iff] at hlen
  obtain ⟨c, hc, hcl⟩ := hlen
  obtain ⟨op, qs, rfl⟩ := List.exists_cons_of_length_eq_add_one hcl
  have hmem := List.mem_of_getElem? hc
  rw [roleOpcode_of_head hc rfl] at hi ⊢
  obtain ⟨hs, hcol⟩ := (Params.wf_opcodes hwf).2 op (Params.mem_opcodes hmem rfl)
  refine decode_of_commandOf ((cmdLen_of_command hwf hmem rfl).trans hcl) ?_
  rw [commandOf_of_role hs hcol (roleOf_of_head hwf hc rfl), hi]

/-- The thirteen init commands have the source's lengths (R200). -/
theorem init_command_length {p : Params} (hwf : p.wf = true) {k n : Nat} (h : Config.initLengths[k]? = some n) :
    (p.commands.map List.length)[k]? = some n := by
  obtain ⟨hk, -⟩ := List.getElem?_eq_some_iff.1 h
  rw [commands_map_length hwf, List.getElem?_append_left hk, h]

/-! ### The fixed forms and the start line (R98, R206) -/

theorem isPageSelect_append (pg : BitVec 3) : isPageSelect (0b10110#5 ++ pg) = true :=
  beq_iff_eq.2 BitVec.extractLsb'_append_eq_left

theorem append_of_isPageSelect {op : Byte} (h : isPageSelect op = true) : 0b10110#5 ++ op.extractLsb' 0 3 = op := by
  rw [← beq_iff_eq.1 h, BitVec.extractLsb'_append_extractLsb']

theorem decode_setPage (p : Params) (pg : BitVec 3) : decode p (.ctl [0b10110#5 ++ pg]) = .ok (.setPage pg) := by
  rw [decode_pageSelect p (isPageSelect_append pg), BitVec.extractLsb'_append_eq_right]

theorem startLineOpcode_of_high {p : Params} {op : Byte} (h : op.extractLsb' 6 2 = startLineHigh p) :
    startLineOpcode p (op.extractLsb' 0 6) = op := by
  rw [startLineOpcode, ← h, BitVec.extractLsb'_append_extractLsb']

@[simp] theorem startLineOpcode_high (p : Params) (line : BitVec 6) :
    (startLineOpcode p line).extractLsb' 6 2 = startLineHigh p := BitVec.extractLsb'_append_eq_left

@[simp] theorem startLineOpcode_line (p : Params) (line : BitVec 6) :
    (startLineOpcode p line).extractLsb' 0 6 = line := BitVec.extractLsb'_append_eq_right

/-- An opcode that heads no command stands alone (R72). -/
theorem cmdLen_of_no_role {p : Params} {op : Byte} (hs : isPageSelect op = false) (hc : op ≠ Config.columnRangeOpcode)
    (hk : roleOf p op = none) : cmdLen p op = 1 := by
  refine cmdLen_of_find_none hs hc (List.find?_eq_none.2 fun c hmem => ?_)
  simp [List.findIdx?_eq_none_iff.1 hk c hmem]

/-- A start line's opcode is either table entry e4's own or heads no parameter command; it decodes to the line either
way. -/
theorem decode_startLine {p : Params} (hwf : p.wf = true) {line : BitVec 6}
    (h : (Instr.setStartLine line).wf p = true) :
    decode p (.ctl [startLineOpcode p line]) = .ok (.setStartLine line) := by
  simp only [Instr.wf, Bool.and_eq_true, Bool.not_eq_true', bne_iff_ne, Bool.or_eq_true, beq_iff_eq] at h
  obtain ⟨⟨hs, hc⟩, hnone | hfour⟩ := h
  · refine decode_of_commandOf (cmdLen_of_no_role hs hc hnone) ?_
    simp [commandOf_of_no_role hs hc hnone]
  · rw [← roleOpcode_of_roleOf hfour]
    refine decode_of_role hwf (init_command_length hwf rfl) ?_
    simp [commandOfRole, roleOpcode_of_roleOf hfour]

/-! ### Controller commands: decoding and encoding are inverse -/

theorem decode_encode_command {p : Params} (hwf : p.wf = true) {i : Instr} (h : isRequest i = false)
    (hi : i.wf p = true) : decode p (encode p i) = .ok i := by
  cases i with
  | setStartLine line => exact decode_startLine hwf hi
  | setPage pg => exact decode_setPage p pg
  | setColumnRange a b => exact decode_columnRange p a b
  | setAddrMode ps | displayOn ps =>
    have hps := of_decide_eq_true hi
    exact decode_of_role hwf (by rw [commands_map_length hwf, hps]; rfl) rfl
  | displayOff | segmentRemap | comScanDir | entireDisplayResume | setClockDiv | setMultiplex
  | setDisplayOffset | chargePump | setComPins | setContrast | setPrecharge | setVcomh =>
    exact decode_of_role hwf (init_command_length hwf rfl) rfl
  | _ => cases h

/-- Settles O1: a request's word is decoded by its fields, a controller command by the role of its opcode, which
well-formed tables make unique. -/
theorem decodeOfEncodeIsInstruction : Obligations.DecodeOfEncodeIsInstruction := by
  intro p i hwf hi
  cases h : isRequest i with
  | true => exact decode_encode_request p h
  | false => exact decode_encode_command hwf h hi

theorem encode_of_commandOfRole {p : Params} {k : Nat} {op : Byte} {ps : List Byte} {i : Instr}
    (hk : roleOpcode p k = op) (h : commandOfRole k op ps = some i) : encode p i = .ctl (op :: ps) := by
  unfold commandOfRole at h
  split at h <;> cases h
  case h_5 => rw [encode, startLineOpcode_of_high (by rw [startLineHigh, hk])]
  all_goals rw [encode, hk]

theorem encode_of_commandOf {p : Params} {op : Byte} {ps : List Byte} {i : Instr} (h : commandOf p op ps = some i) :
    encode p i = .ctl (op :: ps) := by
  by_cases hs : isPageSelect op = true
  · cases ps with
    | nil =>
      obtain rfl : .setPage (op.extractLsb' 0 3) = i := by simpa [commandOf, hs] using h
      rw [encode, append_of_isPageSelect hs]
    | cons => simp [commandOf, hs] at h
  rw [Bool.not_eq_true] at hs
  by_cases hc : op = Config.columnRangeOpcode
  · subst hc
    simp only [commandOf, hs, Bool.false_eq_true, if_false, if_true] at h
    split at h <;> cases h
    rfl
  cases hk : roleOf p op with
  | some k =>
    rw [commandOf_of_role hs hc hk] at h
    exact encode_of_commandOfRole (roleOpcode_of_roleOf hk) h
  | none =>
    rw [commandOf_of_no_role hs hc hk] at h
    split_ifs at h with hline
    obtain ⟨hhigh, rfl⟩ := hline
    cases h
    rw [encode, startLineOpcode_of_high hhigh]

/-- Settles O2: a request word is made of the fields it was decoded by, and an opcode is the one its role has in the
tables. -/
theorem encodeOfDecodeIsWord : Obligations.EncodeOfDecodeIsWord := by
  intro p e i h
  cases e with
  | req w => exact encode_of_decodeReq p h
  | ctl bs =>
    obtain ⟨op, ps, rfl, -, hc⟩ := decode_ctl_cases h
    exact encode_of_commandOf hc

/-! ### Words the spec writes out -/

/-- Settles O4: the page select and the column range have their opcodes under every table; the other words are
evaluated, the contrast command under the default table. -/
theorem specWordsDecode : Obligations.SpecWordsDecode :=
  ⟨rfl, rfl, rfl, rfl, rfl, rfl, rfl, rfl, rfl, decode_setPage _ 3, decode_columnRange _ 0x10 0x7F⟩

end Sys2Proof.Machine

namespace Sys2Proof.Machine

/-! ### A step, by the turn it takes -/

theorem step_of_turn {s : State} {tn : Turn} (h : s.nextTurn = tn) : step s = runTurn tn s.beginStep := by
  rw [step, h]

/-- A turn with no enabled step changes nothing but the schedule and the counter (log entry 2). -/
theorem step_disabled {s : State} {tn : Turn} (h : s.nextTurn = tn) (he : turnEnabled tn s = false) :
    step s = .next (afterStep s) := step_idle (h ▸ he)

/-- The bit of a cause, as its number (R28). -/
theorem FaultCause.mask_eq (c : FaultCause) : c.mask = BitVec.ofNat 16 (2 ^ c.code) := by cases c <;> rfl

/-- A micro-op completes wherever the checks of `MicroDone` are met. -/
theorem MicroDone.microStep_eq {u : MicroOp} {s s' : State} (h : MicroDone s u s') : microStep u s = .done s' := by
  cases h with
  | swrst | program | state => rfl
  | waitSwrst hw => simp [microStep, microWaitSwrst, hw]
  | setDc m he hc => simp [microStep, microSetDc, he, hc]
  | openFrame m he hc hd => simp [microStep, microOpenFrame, he, hc, hd, State.emit]
  | closeFrame he hc ht hs => simp [microStep, microCloseFrame, he, hc, ht, hs, State.emit]
  | send v he hc hd => simp [microStep, microSend, he, hc, hd]
  | waitIdle he ht => simp [microStep, microWaitIdle, he, ht]

section SeqStep

variable {s : State} {u : MicroOp} {rest : List MicroOp}

theorem SeqAt.running (h : SeqAt s u rest) : s.quiescent = false := (State.quiescent_false_iff s).2 h.2.2

/-- A micro-op that completes has its effect and comes off the queue (R121). -/
theorem SeqAt.step_done {s' t : State} (h : SeqAt s u rest) (hd : MicroDone s.beginStep u s')
    (ht : s'.retire rest = t) : step s = .next t := by
  have hn : s.beginStep.quiescent = false := h.running
  obtain ⟨hturn, hq, -⟩ := h
  simp [step_of_turn hturn, runTurn, seqTurn, hq, hn, hd.microStep_eq, ht]

/-- A micro-op that holds changes nothing but the schedule and the counter (log entry 2). -/
theorem SeqAt.step_hold (h : SeqAt s u rest) (hh : microStep u s = .hold) : step s = .next (afterStep s) := by
  obtain ⟨hturn, hq, -⟩ := h
  refine step_disabled hturn ?_
  by_contra he
  obtain ⟨-, u', rest', hq', hne⟩ := seqEnabled_iff.1 (by simpa using he)
  obtain ⟨rfl, -⟩ := List.cons.inj (hq.symm.trans hq')
  exact hne hh

/-- A micro-op that raises a fault takes the fault action and has no other effect (R232). -/
theorem SeqAt.step_raise (c : FaultCause) (h : SeqAt s u rest) (hr : microStep u s.beginStep = .raise c) :
    step s = .next (afterFault s c.code) := by
  have hn : s.beginStep.quiescent = false := h.running
  obtain ⟨hturn, hq, -⟩ := h
  have hstep : step s = .next (s.beginStep.raise c) := by
    simp [step_of_turn hturn, runTurn, seqTurn, hq, hn, hr]
  rw [hstep, afterFault, ← c.mask_eq]
  rfl

end SeqStep

/-! ### Micro-ops: SEQ's turn -/

/-- Settles O18: the micro-op has no check, and its two writes are its whole effect. -/
theorem softwareResetStarts : Obligations.SoftwareResetStarts := fun _ _ h => h.step_done .swrst rfl

/-- Settles O19: the wait's one condition is SWRST_BUSY. -/
theorem softwareResetIsAwaited : Obligations.SoftwareResetIsAwaited := fun _ _ h =>
  ⟨fun hw => h.step_hold (microStep_hold_iff.2 (.inl ⟨rfl, hw⟩)), fun hw => h.step_done (.waitSwrst hw) rfl⟩

/-- DORD is 1 exactly where the bit order is not most significant first (R128). -/
theorem dordBit_eq (o : BitOrder) : dordBit o = decide (o ≠ .msbFirst) := by cases o <;> rfl

/-- Settles O20: the micro-op has no check, and writes all its fields in one step. -/
theorem programWritesConfiguration : Obligations.ProgramWritesConfiguration := fun s _ h => by
  rw [← dordBit_eq]
  exact h.step_done .program rfl

/-- Every bus micro-op checks ENABLE first (R132). -/
theorem microStep_disabled {u : MicroOp} {s : State} (hu : u.onBus = true) (he : s.pctrl.enable = false) :
    microStep u s = .raise .notConfigured := by
  cases u with
  | setDc m => simp [microStep, microSetDc, he]
  | select a =>
    cases a with
    | true => simp [microStep, microOpenFrame, he]
    | false => simp [microStep, microCloseFrame, he]
  | send v => simp [microStep, microSend, he]
  | waitIdle => simp [microStep, microWaitIdle, he]
  | _ => cases hu

/-- Settles O22: the four kinds of micro-op are those of the bus, which check ENABLE first. -/
theorem unconfiguredTransportFaults : Obligations.UnconfiguredTransportFaults := by
  intro s u rest h he hu
  have hbus : u.onBus = true := by
    rcases hu with ⟨m, rfl⟩ | ⟨a, rfl⟩ | ⟨v, rfl⟩ | rfl <;> rfl
  exact h.step_raise .notConfigured (microStep_disabled hbus he)

/-- Settles O23: past ENABLE the one check is of CS_N, and it does not look at the mode. -/
theorem modeLineIsDriven : Obligations.ModeLineIsDriven := fun _ m _ h he =>
  ⟨fun hc => h.step_done (.setDc m he hc) rfl,
    fun hc => h.step_raise .modeChangeInFrame (by simp [microStep, microSetDc, he, hc])⟩

/-- Settles O24: past ENABLE come the check of CS_N and then that of the mode line. -/
theorem selectOpensFrame : Obligations.SelectOpensFrame := fun _ _ h he =>
  ⟨fun m hc hd => h.step_done (.openFrame m he hc hd) rfl,
    fun hc => h.step_raise .nestedFrame (by simp [microStep, microOpenFrame, he, hc]),
    fun hc hd => h.step_raise .modeUnset (by simp [microStep, microOpenFrame, he, hc, hd])⟩

/-- Settles O25: past ENABLE come the check of CS_N and then that of the bytes in flight. -/
theorem selectClosesFrame : Obligations.SelectClosesFrame := fun _ _ h he =>
  ⟨fun hc ht hs => h.step_done (.closeFrame he hc ht hs) rfl,
    fun hc => h.step_raise .unmatchedClose (by simp [microStep, microCloseFrame, he, hc]),
    fun hc hf => h.step_raise .truncatedFrame
      (by simp [microStep, microCloseFrame, he, hc, Option.isSome_iff_ne_none, hf])⟩

/-- Settles O26: past ENABLE comes the check of CS_N, and only then the hold on DRE. -/
theorem sendFillsTransmitRegister : Obligations.SendFillsTransmitRegister := fun _ v _ h he =>
  ⟨fun hc hd => h.step_done (.send v he hc hd) rfl,
    fun hc hd => h.step_hold (microStep_hold_iff.2 (.inr (.inl ⟨⟨v, rfl⟩, he, hc, hd⟩))),
    fun hc => h.step_raise .byteOutsideFrame (by simp [microStep, microSend, he, hc])⟩

/-- Settles O27: past ENABLE the wait reads TXC alone, and leaves it. -/
theorem waitIdleWaitsForTxc : Obligations.WaitIdleWaitsForTxc := fun _ _ h he =>
  ⟨fun ht => h.step_done (.waitIdle he ht) rfl,
    fun ht => h.step_hold (microStep_hold_iff.2 (.inr (.inr ⟨rfl, he, ht⟩)))⟩

/-! ### SHIFT's turns -/

/-- Settles O28: the step is enabled by SWRST_BUSY alone. -/
theorem shiftReset : Obligations.ShiftReset := by
  refine fun s h => ⟨fun hw => ?_, fun hw => step_disabled h hw⟩
  have hw' : s.beginStep.swrstBusy = true := hw
  rw [step_of_turn h, runTurn, shReset, if_pos hw']
  rfl

/-- Settles O29: the four conditions are those of the enabled step. -/
theorem shiftLoad : Obligations.ShiftLoad := by
  refine fun s h => ⟨fun v he hw hs ht => ?_, fun hd => step_disabled h ?_⟩
  · simp [step_of_turn h, runTurn, shLoad, afterStep, State.beginStep, he, hw, hs, ht]
  · rcases hd with he | hw | hs | ht
    · simp [turnEnabled, he]
    · simp [turnEnabled, hw]
    · simp [turnEnabled, Option.isNone_iff_eq_none, hs]
    · simp [turnEnabled, ht]

/-- A bit of the shift register is presented and counted off (R142). -/
theorem shBit_eq {s : State} {r : ShiftReg} (hs : s.shift = some r) (hl : r.left ≠ 0) : shBit s = { s with
    mosi := .bit (r.value.getLsbD (bitIndex s.pctrl.dord r.left.val)), sck := .low, shift := some r.pop } := by
  simp [shBit, hs, hl]

theorem ShiftReg.pop_left (r : ShiftReg) : r.pop.left.val = r.left.val - 1 := rfl

/-- The bit's index, by the order of the bits (R142). -/
theorem bitIndex_eq (dord : Bool) (k : Nat) : bitIndex dord k = if dord = false then k - 1 else 8 - k := by
  cases dord <;> rfl

/-- Settles O30: a register with a bit left presents it; without one no step is enabled. -/
theorem shiftBit : Obligations.ShiftBit := by
  refine fun s h => ⟨fun r hs hl => ⟨r.pop, rfl, ?_, ?_⟩, fun hd => step_disabled h ?_⟩
  · have hpos : r.left.val ≠ 0 := Fin.val_ne_zero_iff.2 hl
    rw [ShiftReg.pop_left]
    omega
  · have hs' : s.beginStep.shift = some r := hs
    rw [step_of_turn h, runTurn, shBit_eq hs' hl, ← bitIndex_eq]
    rfl
  · rcases hs : s.shift with _ | r
    · simp [turnEnabled, hs]
    · simp [turnEnabled, hs, hd r hs]

/-! ### The order of the bits -/

/-- After `n` bits have left, the shift register holds the same byte with `n` fewer, and the bit order is as before. -/
theorem shBit_iterate {s : State} {v : Byte} (hs : s.shift = some ⟨v, 8⟩) {n : Nat} (hn : n ≤ 8) :
    (∃ r, (shBit^[n] s).shift = some r ∧ r.value = v ∧ r.left.val = 8 - n) ∧
      (shBit^[n] s).pctrl.dord = s.pctrl.dord := by
  induction n with
  | zero => exact ⟨⟨_, hs, rfl, rfl⟩, rfl⟩
  | succ n ih =>
    obtain ⟨⟨r, hr, hv, hleft⟩, hd⟩ := ih (by omega)
    have hl : r.left ≠ 0 := Fin.val_ne_zero_iff.1 (by omega)
    rw [Function.iterate_succ_apply', shBit_eq hr hl]
    exact ⟨⟨r.pop, rfl, hv, by rw [ShiftReg.pop_left]; omega⟩, hd⟩

/-- A receiver takes one sample of each bit's waveform: the bit (R122, R144). -/
theorem risingSamples_flatMap_bitWave (l : List Bool) : risingSamples (l.flatMap bitWave) = l.map .bit := by
  induction l with
  | nil => rfl
  | cons b l ih =>
    cases l with
    | nil => rfl
    | cons c l => simpa [bitWave, risingSamples] using ih

/-- Settles O32: before the n-th step n bits have left, and the waveform's samples are the bits in the order sent. -/
theorem bytesLeaveMsbFirst : Obligations.BytesLeaveMsbFirst := by
  refine ⟨fun s v n hs hd hn => ?_, fun v => ?_⟩
  · obtain ⟨⟨r, hr, hv, hleft⟩, hdord⟩ := shBit_iterate hs (Nat.le_of_lt hn)
    have hl : r.left ≠ 0 := Fin.val_ne_zero_iff.1 (by omega)
    have hindex : bitIndex false (8 - n) = 7 - n := by rw [bitIndex_eq, if_pos rfl]; omega
    rw [Function.iterate_succ_apply', shBit_eq hr hl, hdord, hd, hv, hleft, hindex]
  · rw [byteWave, risingSamples_flatMap_bitWave, List.map_map]
    rfl

/-! ### A byte that completes -/

/-- SH_DONE's step: the block's part on the state with the turn taken off, and the panel's (R143, R70). -/
theorem step_shDone {s : State} {r : ShiftReg} {m : Mode} (h : s.nextTurn = .shDone) (hs : s.shift = some r)
    (hl : r.left = 0) (hd : s.dc = some m) : step s = .next { shDone m r.value s.beginStep with
      panel := panelAfter s.params s.panel m r.value } := by
  rw [step_of_turn h, runTurn, shDoneTurn]
  simp only [State.beginStep_shift, hs, hl, if_true, State.beginStep_dc, hd]
  exact panelReceive_eq m r.value _

/-- Settles O31: the panel's part of the step is the data write at the cursor. -/
theorem dataByteCompletes : Obligations.DataByteCompletes := by
  intro s r h hs hl hd
  have hplace : ramAddr s.panel.page s.panel.col = 128 * s.panel.page.toNat + s.panel.col.toNat := by
    rw [ramAddr, Config.columns, Nat.mul_comm]
  refine ⟨_, step_shDone h hs hl hd, rfl, rfl, ?_, fun a ha => ?_, rfl⟩
  · rw [← hplace]
    exact Memory.read_write_same _ _ _
  · rw [← hplace] at ha
    exact Memory.read_write_other _ _ ha

/-- A Command byte that leaves its command short of bytes is kept with those before it (R72). -/
theorem Panel.collect_of_short {p : Params} {pn : Panel} {v : Byte}
    (h : (pn.parse.bytes ++ [v]).length < cmdLen p ((pn.parse.bytes ++ [v]).headD 0)) :
    pn.collect p v =
      ({ pn with parse := .params ((pn.parse.bytes ++ [v]).headD 0) (pn.parse.bytes ++ [v]).tail }, none) := by
  cases hp : pn.parse with
  | idle =>
    have hlen : ¬cmdLen p v ≤ 1 := by simpa [hp, Parse.bytes] using h
    simp [Panel.collect, hp, Parse.bytes, hlen]
  | params op got =>
    have hlen : ¬cmdLen p op ≤ got.length + 2 := by simpa [hp, Parse.bytes] using h
    simp [Panel.collect, hp, Parse.bytes, hlen]

/-- A Command byte that is the last of its command completes it and leaves the parser idle (R72). -/
theorem Panel.collect_of_full {p : Params} {pn : Panel} {v : Byte}
    (h : (pn.parse.bytes ++ [v]).length = cmdLen p ((pn.parse.bytes ++ [v]).headD 0)) :
    pn.collect p v = ({ pn with parse := .idle }, some (pn.parse.bytes ++ [v])) := by
  cases hp : pn.parse with
  | idle =>
    have hlen : cmdLen p v = 1 := by simpa [hp, Parse.bytes] using h.symm
    have hpn : pn = { pn with parse := .idle } := by rw [← hp]
    simpa [Panel.collect, hp, Parse.bytes, hlen] using hpn
  | params op got =>
    have hlen : cmdLen p op ≤ got.length + 2 := by simpa [hp, Parse.bytes] using h.symm.le
    simp [Panel.collect, hp, Parse.bytes, hlen]

/-- A byte that is no opcode of the block is a command of one byte without an effect (X6, R76). -/
theorem panelAfter_unknown {p : Params} {pn : Panel} {v : Byte} (hp : pn.parse = .idle)
    (hs : isPageSelect v = false) (hc : v ≠ Config.columnRangeOpcode) (hnone : ∀ c ∈ p.commands, c.head? ≠ some v) :
    panelAfter p pn .cmd v = { pn with parse := .idle } := by
  have hlen : cmdLen p v = 1 := cmdLen_of_find_none hs hc (List.find?_eq_none.2 (by simpa using hnone))
  have hfull := Panel.collect_of_full (p := p) (pn := pn) (v := v) (by simp [hp, Parse.bytes, hlen])
  rw [panelAfter_cmd_completing hfull, hp, Parse.bytes, List.nil_append, completedEffect_other p hs hc]

/-- Settles O7: the panel's part of the step is the parser's, with the effect of the command it completes. -/
theorem stepRunsCommand : Obligations.StepRunsCommand := by
  intro s r h hs hl hd bs
  have hstep {pn : Panel} (hpn : panelAfter s.params s.panel .cmd r.value = pn) :
      step s = .next { afterCommandByte s r.value .idle with panel := pn } := by
    rw [step_shDone h hs hl hd, hpn]
    rfl
  refine ⟨fun hlen => hstep (panelAfter_cmd_collecting (Panel.collect_of_short hlen)), fun i hlen hdec => ?_,
    fun e hlen hdec => ?_, fun hp hpage hcol hnone => ?_⟩
  · rw [exec_command (decode_ctl_isCommand hdec)]
    apply hstep
    rw [panelAfter_cmd_completing (Panel.collect_of_full hlen), completedEffect_ok hdec]
    rfl
  · apply hstep
    rw [panelAfter_cmd_completing (Panel.collect_of_full hlen), completedEffect, hdec]
  · have hs' : isPageSelect r.value = false := by simpa using mt (isPageSelect_iff r.value).1 hpage
    exact hstep (panelAfter_unknown hp hs' hcol hnone)

/-! ### Requests: what acceptance does -/

/-- The fault action in a block that runs nothing writes the fault set alone (R232). -/
theorem State.raise_of_accepting {s : State} (h : Accepting s) (hq : s.q = []) (c : FaultCause) :
    s.raise c = { s with fault := c.mask } := by
  obtain ⟨hfault, -, hbusy⟩ := h
  have hmask : 0 ||| c.mask = c.mask := BitVec.zero_or
  rw [State.raise, hfault, hmask, ← hq, ← hbusy]

theorem exec_ops {i : Instr} {s : State} {l : List MicroOp} (h : Accepting s) (hi : isRequest i = true)
    (he : expand i s = some (.ops l)) : exec i s = .next { s with q := l, busy := decide (l ≠ []) } := by
  obtain ⟨e, he', hx⟩ := exec_request hi s
  obtain rfl := Option.some.inj (he'.symm.trans he)
  rw [hx, acceptRequest_ops l h]

theorem exec_fault {i : Instr} {s : State} {c : FaultCause} (h : Accepting s) (hi : isRequest i = true)
    (he : expand i s = some (.fault c)) (hq : s.q = []) : exec i s = .next { s with fault := c.mask } := by
  obtain ⟨e, he', hx⟩ := exec_request hi s
  obtain rfl := Option.some.inj (he'.symm.trans he)
  rw [hx, acceptRequest_fault c h, State.raise_of_accepting h hq]

/-- CONFIGURE is taken in UNINIT with the peripheral disabled (R130). -/
theorem expand_configure_ops {s : State} (hu : s.seqState = .uninit) (he : s.pctrl.enable = false) :
    expand .configure s = some (.ops configureOps) := by
  simp [expand, expandConfigure, hu, he]

/-- CONFIGURE is a RECONFIGURE anywhere else (R130). -/
theorem expand_configure_fault {s : State} (h : s.seqState ≠ .uninit ∨ s.pctrl.enable = true) :
    expand .configure s = some (.fault .reconfigure) := by
  simp only [expand, expandConfigure, if_pos h]

/-- Settles O8: each request is offered with its fixed list, and CONFIGURE's other expansion is a fault. -/
theorem transportRequestsExpand : Obligations.TransportRequestsExpand := fun _ h =>
  ⟨fun hu he => exec_ops h rfl (expand_configure_ops hu he),
    fun hq hd => exec_fault h rfl (expand_configure_fault hd) hq,
    fun _ => exec_ops h rfl rfl, fun _ => exec_ops h rfl rfl, fun _ => exec_ops h rfl rfl, exec_ops h rfl rfl⟩

/-! ### The divisor -/

/-- A divisor is within the limit iff it is at least `BAUD` (R124). -/
theorem baudOf_le_iff {f : Nat} (b : Nat) : baudOf f ≤ b ↔ f ≤ 10000000 * (2 * (b + 1)) := by
  simp only [baudOf, Config.fSckMax]
  omega

/-- Settles O60: the divisors within the limit are those from `BAUD` on, and 255 is one of them iff the clock is at most
512 times the limit. -/
theorem baudIsFastestWithinLimit : Obligations.BaudIsFastestWithinLimit := by
  refine fun f _ => ⟨(baudOf_le_iff _).1 le_rfl, fun b => (baudOf_le_iff b).2, ?_⟩
  rw [Nat.lt_succ_iff, baudOf_le_iff]

/-! ### The pins SEQ drives -/

theorem HostMove.csN_eq {s t : State} (h : HostMove s t) : t.csN = s.csN := by cases h <;> rfl

theorem HostMove.dc_eq {s t : State} (h : HostMove s t) : t.dc = s.dc := by cases h <;> rfl

/-- Settles O40: the host's turn and SHIFT's frame leave all three as they were. -/
theorem onlySeqDrivesSelectAndMode : Obligations.OnlySeqDrivesSelectAndMode := by
  intro s t h hturn
  have of_frame {a : State} (hf : ShiftFrame s a) : a.csN = s.csN ∧ a.dc = s.dc ∧ a.seqState = s.seqState :=
    ⟨hf.csN, hf.dc, hf.seqState⟩
  obtain ⟨tn, rfl, hm⟩ := step_move h
  generalize s.nextTurn = tn at hturn hm
  cases hm with
  | hostIdle => exact ⟨rfl, rfl, rfl⟩
  | host a rest t hin hm => exact ⟨hm.csN_eq, hm.dc_eq, hm.seqState_eq⟩
  | seq => exact absurd rfl hturn
  | shReset => exact of_frame { shReset_frame s.beginStep with }
  | shLoad => exact of_frame { shLoad_frame s.beginStep with }
  | shBit => exact of_frame { shBit_frame s.beginStep with }
  | shDone t hm => exact of_frame { hm.frame with }

end Sys2Proof.Machine

namespace Sys2Proof.Machine

/-! ### Runs in which SHIFT has nothing to do -/

/-- The three registers SHIFT works on are at rest: no software reset in progress, and nothing in flight. -/
structure ShiftIdle (s : State) : Prop where
  swrstBusy : s.swrstBusy = false
  txbuf : s.txbuf = none
  shift : s.shift = none

/-- With its registers at rest SHIFT has no enabled step (R140-R143). -/
theorem ShiftIdle.disabled {s : State} (h : ShiftIdle s) {tn : Turn} (ht : tn ∈ shiftTurns) :
    turnEnabled tn s = false := by
  simp only [shiftTurns, List.mem_cons, List.not_mem_nil, or_false] at ht
  rcases ht with rfl | rfl | rfl | rfl
  · exact h.swrstBusy
  · simp [turnEnabled, h.txbuf]
  · simp [turnEnabled, h.shift]
  · simp [turnEnabled, h.shift]

/-- Where no step of SHIFT is enabled its registers are at rest: a byte in the shift register always has a next step, and
one in the transmit register finds the peripheral enabled (R132, R141). -/
theorem Inv.shiftIdle {s : State} (hi : Inv s) (h : ∀ tn ∈ shiftTurns, turnEnabled tn s = false) : ShiftIdle s := by
  have hw : s.swrstBusy = false := h .shReset (by simp [shiftTurns])
  have hs : s.shift = none := by
    by_contra hne
    obtain ⟨r, hr⟩ := Option.ne_none_iff_exists'.1 hne
    have hbit := h .shBit (by simp [shiftTurns])
    have hdone := h .shDone (by simp [shiftTurns])
    simp only [turnEnabled, hr, decide_eq_false_iff_not] at hbit hdone
    exact hbit hdone
  refine ⟨hw, ?_, hs⟩
  by_contra hne
  have he : s.pctrl.enable = true := by
    by_contra hd
    exact hne (hi.disabled_idle (by simpa using hd)).1
  have hload := h .shLoad (by simp [shiftTurns])
  simp [turnEnabled, he, hw, hs, hne] at hload

/-- A turn is the host's, SEQ's, or one of SHIFT's. -/
theorem turn_byAgent (tn : Turn) : tn = .host ∨ tn = .seq ∨ tn ∈ shiftTurns := by
  cases tn <;> simp [shiftTurns]

/-- With no host access to come and SHIFT at rest, a step is SEQ's or changes nothing but the schedule and the
counter. -/
theorem ShiftIdle.step_cases {s t : State} (h : ShiftIdle s) (hin : s.hostIn = []) (hs : step s = .next t) :
    s.nextTurn = .seq ∨ t = afterStep s := by
  rcases turn_byAgent s.nextTurn with hn | hn | hn
  · exact .inr (by simpa [step_disabled hn (by simp [turnEnabled, hin])] using hs.symm)
  · exact .inl hn
  · exact .inr (by simpa [step_disabled rfl (h.disabled hn)] using hs.symm)

/-! ### The run of configure -/

/-- What configure leaves alone, with nothing in flight throughout (R129). -/
structure ConfigureFrame (s t : State) : Prop where
  hostIn : t.hostIn = []
  fault : t.fault = 0
  refused : t.refused = false
  csN : t.csN = s.csN
  dc : t.dc = s.dc
  trace : t.trace = s.trace
  txbuf : t.txbuf = none
  shift : t.shift = none

/-- What the software reset leaves of the peripheral's flags, until a byte is sent (R140). -/
structure FlagsReset (t : State) : Prop where
  swrstBusy : t.swrstBusy = false
  dre : t.dre = true
  txc : t.txc = false
  rxbuf : t.rxbuf = none

/-- How far configure has come (R130). -/
inductive ConfigureStage (t : State) : Prop where
  | starting (hq : t.q = configureOps) (hw : t.swrstBusy = false)
  | resetting (hq : t.q = configureOps.drop 1) (hw : t.swrstBusy = true)
  | reset (hq : t.q = configureOps.drop 1) (hf : FlagsReset t)
  | programming (hq : t.q = configureOps.drop 2) (hf : FlagsReset t)
  | programmed (hq : t.q = configureOps.drop 3) (hf : FlagsReset t) (he : t.pctrl.enable = true) (hs : t.sck = .low)
  | finished (hq : t.q = []) (hf : FlagsReset t) (he : t.pctrl.enable = true) (hs : t.sck = .low)
      (hp : t.seqState = .poweredOff)

theorem ConfigureFrame.afterStep {s t : State} (h : ConfigureFrame s t) : ConfigureFrame s (afterStep t) := { h with }

theorem FlagsReset.afterStep {t : State} (h : FlagsReset t) : FlagsReset (afterStep t) := { h with }

theorem FlagsReset.shiftIdle {s t : State} (hf : FlagsReset t) (h : ConfigureFrame s t) : ShiftIdle t :=
  ⟨hf.swrstBusy, h.txbuf, h.shift⟩

theorem ConfigureStage.afterStep {t : State} (h : ConfigureStage t) : ConfigureStage (afterStep t) := by
  cases h with
  | starting hq hw => exact .starting hq hw
  | resetting hq hw => exact .resetting hq hw
  | reset hq hf => exact .reset hq hf.afterStep
  | programming hq hf => exact .programming hq hf.afterStep
  | programmed hq hf he hs => exact .programmed hq hf.afterStep he hs
  | finished hq hf he hs hp => exact .finished hq hf.afterStep he hs hp

/-- A run of configure from a state: what is kept and how far it has come. -/
def Configuring (s t : State) : Prop := ConfigureFrame s t ∧ ConfigureStage t

theorem Configuring.afterStep {s t : State} (h : Configuring s t) : Configuring s (afterStep t) :=
  ⟨h.1.afterStep, h.2.afterStep⟩

theorem ConfigureFrame.seqAt {s t : State} {u : MicroOp} {rest : List MicroOp} (h : ConfigureFrame s t)
    (hturn : t.nextTurn = .seq) (hq : t.q = u :: rest) : SeqAt t u rest := ⟨hturn, hq, h.fault, h.refused⟩

/-- The software reset ends with SH_RESET; until then the wait holds, and the other turns do nothing (R127, R140). -/
theorem Configuring.after_resetting {s t u : State} (hf : ConfigureFrame s t) (hq : t.q = configureOps.drop 1)
    (hw : t.swrstBusy = true) (h : step t = .next u) : Configuring s u := by
  have stay (hs : step t = .next (Machine.afterStep t)) : Configuring s u := by
    rw [hs] at h
    cases h
    exact Configuring.afterStep ⟨hf, .resetting hq hw⟩
  cases hturn : t.nextTurn with
  | host => exact stay (step_disabled hturn (by simp [turnEnabled, hf.hostIn]))
  | seq => exact stay ((softwareResetIsAwaited t _ (hf.seqAt hturn hq)).1 hw)
  | shReset =>
    rw [(shiftReset t hturn).1 hw] at h
    cases h
    exact ⟨{ hf with txbuf := rfl, shift := rfl }, .reset hq ⟨rfl, rfl, rfl, rfl⟩⟩
  | shLoad => exact stay (step_disabled hturn (by simp [turnEnabled, hf.txbuf]))
  | shBit => exact stay (step_disabled hturn (by simp [turnEnabled, hf.shift]))
  | shDone => exact stay (step_disabled hturn (by simp [turnEnabled, hf.shift]))

/-- Outside the software reset SEQ alone has steps: it runs the micro-op at the head (R126-R128, R163). -/
theorem Configuring.after_step {s t u : State} (hc : Configuring s t) (h : step t = .next u) : Configuring s u := by
  obtain ⟨hf, hstage⟩ := hc
  have of_seq (hidle : ShiftIdle t) (hseq : t.nextTurn = .seq → Configuring s u) : Configuring s u := by
    rcases hidle.step_cases hf.hostIn h with hturn | rfl
    · exact hseq hturn
    · exact Configuring.afterStep ⟨hf, hstage⟩
  cases hstage with
  | resetting hq hw => exact after_resetting hf hq hw h
  | starting hq hw =>
    refine of_seq ⟨hw, hf.txbuf, hf.shift⟩ fun hturn => ?_
    rw [softwareResetStarts t _ (hf.seqAt hturn hq)] at h
    cases h
    exact ⟨{ hf with }, .resetting rfl rfl⟩
  | reset hq hr =>
    refine of_seq (hr.shiftIdle hf) fun hturn => ?_
    rw [(softwareResetIsAwaited t _ (hf.seqAt hturn hq)).2 hr.swrstBusy] at h
    cases h
    exact ⟨{ hf with }, .programming rfl { hr with }⟩
  | programming hq hr =>
    refine of_seq (hr.shiftIdle hf) fun hturn => ?_
    rw [programWritesConfiguration t _ (hf.seqAt hturn hq)] at h
    cases h
    exact ⟨{ hf with }, .programmed rfl { hr with } rfl rfl⟩
  | programmed hq hr he hs =>
    refine of_seq (hr.shiftIdle hf) fun hturn => ?_
    rw [(hf.seqAt hturn hq).step_done (.state _) rfl] at h
    cases h
    exact ⟨{ hf with }, .finished rfl { hr with } he hs rfl⟩
  | finished hq hr he hs hp =>
    refine of_seq (hr.shiftIdle hf) fun hturn => ?_
    rw [step_disabled hturn (by simp [turnEnabled, seqEnabled, hq])] at h
    cases h
    exact Configuring.afterStep ⟨hf, .finished hq hr he hs hp⟩

/-- Settles O51: the run of configure goes through its stages, whose last is the one with an empty queue. -/
theorem configureLeavesValues : Obligations.ConfigureLeavesValues := by
  intro s u t n hi ha hin hu he hx hrun
  rw [exec_ops ha rfl (expand_configure_ops hu he)] at hx
  cases hx
  have hn := ha.quiescent
  obtain ⟨hfault, hrefused, hbusy⟩ := ha
  obtain ⟨htx, hsh⟩ := hi.disabled_idle he
  have hw : s.swrstBusy = false := hi.not_resetting hn (by simp [hi.queue_empty hbusy])
  obtain ⟨hf, hstage⟩ : Configuring s t := by
    refine core_run_induct (fun _ _ => Configuring.after_step) ⟨?_, ?_⟩ hrun
    · exact ⟨hin, hfault, hrefused, rfl, rfl, rfl, htx, hsh⟩
    · exact .starting rfl hw
  refine ⟨hf.fault, fun hq => ?_⟩
  cases hstage with
  | finished _ hr he hs hp =>
    exact ⟨he, hr.dre, hr.txc, hf.txbuf, hf.shift, hr.rxbuf, hs, hp, hf.csN, hf.dc, hf.trace⟩
  | _ hq' => simp [hq, configureOps] at hq'

/-! ### The idle wait that hangs -/

/-- A step keeps a quiescent block quiescent (R25). -/
theorem quiescent_step {s t : State} (h : step s = .next t) (hq : s.quiescent = true) : t.quiescent = true := by
  obtain ⟨hfault, hrefused⟩ := faultsAreSticky s t h
  rw [State.quiescent_iff] at hq ⊢
  refine hq.imp (fun hne hzero => hne ?_) hrefused
  refine BitVec.eq_of_getLsbD_eq fun i _ => ?_
  by_contra hb
  simpa [hzero] using hfault i (by simpa using hb)

/-- While a request runs, an access of the host leaves all but the replies as it was, or faults the block (R160). -/
theorem HostMove.of_busy {s t : State} (h : HostMove s t) (hb : s.busy = true) :
    t = s ∨ (∃ w, t = s.reply w) ∨ t.quiescent = true := by
  cases h with
  | stay => exact .inl rfl
  | reply w => exact .inr (.inl ⟨w, rfl⟩)
  | accept i l hn hb' => simp [hb] at hb'
  | raise c => exact .inr (.inr (s.raise_quiescent c))
  | raiseReply => exact .inr (.inr (s.raise_quiescent .illegalAccess))
  | refuse hn hb' => simp [hb] at hb'

/-- `u_WAIT_IDLE` is at the head of the queue, or a fault or a refusal has emptied the queue since. -/
def AtIdleWait (rest : List MicroOp) (s : State) : Prop := s.quiescent = true ∨ s.q = .waitIdle :: rest

/-- The transmit path and the trace are as they were. -/
structure TransmitKept (s t : State) : Prop where
  enable : t.pctrl.enable = s.pctrl.enable
  txc : t.txc = s.txc
  txbuf : t.txbuf = s.txbuf
  shift : t.shift = s.shift
  trace : t.trace = s.trace

theorem TransmitKept.refl (s : State) : TransmitKept s s := ⟨rfl, rfl, rfl, rfl, rfl⟩

theorem TransmitKept.trans {s t u : State} (h : TransmitKept s t) (h' : TransmitKept t u) : TransmitKept s u :=
  ⟨h'.enable.trans h.enable, h'.txc.trans h.txc, h'.txbuf.trans h.txbuf, h'.shift.trans h.shift, h'.trace.trans h.trace⟩

theorem HostMove.transmitKept {s t : State} (h : HostMove s t) : TransmitKept s t := by
  cases h <;> exact ⟨rfl, rfl, rfl, rfl, rfl⟩

/-- At a wait that TXC does not lift SEQ has no effect but a fault's. -/
theorem SeqMove.of_idleWait {s t : State} {rest : List MicroOp} (h : SeqMove s t) (hw : AtIdleWait rest s)
    (htxc : s.txc = false) : t = s ∨ ∃ c, t = s.raise c := by
  cases h with
  | stay => exact .inl rfl
  | raise u rest c => exact .inr ⟨c, rfl⟩
  | done u rest s' hq hn hd =>
    have hwait : s.q = .waitIdle :: _ := hw.resolve_left (by simp [hn])
    obtain ⟨rfl, -⟩ := List.cons.inj (hq.symm.trans hwait)
    cases hd with
    | waitIdle _ ht => simp [htxc] at ht

/-- A wait that TXC does not lift is left by a fault or a refusal alone (R137, R234). -/
theorem AtIdleWait.after_step {s t : State} {rest : List MicroOp} (hw : AtIdleWait rest s) (hi : Inv s)
    (htxc : s.txc = false) (h : step s = .next t) : AtIdleWait rest t := by
  rcases hw with hn | hq
  · exact .inl (quiescent_step h hn)
  have hbusy : s.busy = true := hi.busy_iff.2 (by simp [hq])
  obtain ⟨tn, -, hm⟩ := step_move h
  rcases hm.byAgent with ⟨hin, hh⟩ | hs | hf
  · rcases hh.of_busy hbusy with rfl | ⟨w, rfl⟩ | hn
    · exact .inr hq
    · exact .inr hq
    · exact .inl hn
  · rcases hs.of_idleWait (.inr hq) htxc with rfl | ⟨c, rfl⟩
    · exact .inr hq
    · exact .inl (State.raise_quiescent _ c)
  · exact .inr (hf.q.trans hq)

/-- At a wait that TXC does not lift only SHIFT writes the transmit path and the trace. -/
theorem AtIdleWait.transmitKept {s t : State} {rest : List MicroOp} (hw : AtIdleWait rest s) (htxc : s.txc = false)
    (hturn : s.nextTurn ∉ shiftTurns) (h : step s = .next t) : TransmitKept s t := by
  obtain ⟨tn, rfl, hm⟩ := step_move h
  generalize s.nextTurn = tn at hturn hm
  cases hm with
  | hostIdle => exact ⟨rfl, rfl, rfl, rfl, rfl⟩
  | host a hin t _ hm => exact { hm.transmitKept with }
  | seq t hm =>
    rcases hm.of_idleWait hw htxc with rfl | ⟨c, rfl⟩ <;> exact ⟨rfl, rfl, rfl, rfl, rfl⟩
  | _ => simp [shiftTurns] at hturn

/-- A configured block has no software reset in progress (R126, R127). -/
theorem Inv.swrstBusy_of_enabled {s : State} (hi : Inv s) (he : s.pctrl.enable = true) : s.swrstBusy = false := by
  by_contra hw
  simp [(hi.resetting (by simpa using hw)).1] at he

/-- Settles O55: with nothing in flight SHIFT has no step that could set TXC, so every step keeps the wait and the
transmit path, or raises a fault. -/
theorem idleWaitHangs : Obligations.IdleWaitHangs := by
  intro s t rest n hi _ he hq htxc htx hsh hrun
  obtain ⟨hi', hw, hk⟩ : Inv t ∧ AtIdleWait rest t ∧ TransmitKept s t := by
    refine core_run_induct (P := fun t => Inv t ∧ AtIdleWait rest t ∧ TransmitKept s t) ?_ ⟨hi, .inr hq, .refl s⟩ hrun
    rintro t u ⟨hi, hw, hk⟩ h
    have htxc' : t.txc = false := hk.txc.trans htxc
    have hidle : ShiftIdle t :=
      ⟨hi.swrstBusy_of_enabled (hk.enable.trans he), hk.txbuf.trans htx, hk.shift.trans hsh⟩
    refine ⟨invariantIsKept t u hi h, hw.after_step hi htxc' h, hk.trans ?_⟩
    by_cases hturn : t.nextTurn ∈ shiftTurns
    · rw [step_disabled rfl (hidle.disabled hturn)] at h
      cases h
      exact ⟨rfl, rfl, rfl, rfl, rfl⟩
    · exact hw.transmitKept htxc' hturn h
  refine hw.imp id fun hq' => ⟨hq', hi'.busy_iff.2 (by simp [hq']), hk.txc.trans htxc, hk.txbuf.trans htx,
    hk.shift.trans hsh, hk.trace⟩

/-! ### Infinite runs come to rest -/

/-- From a number on, every turn of a run is one with no enabled step. -/
def RestsFrom (r : Nat → State) (n : Nat) : Prop :=
  ∀ m, n ≤ m → turnEnabled (r m).nextTurn (r m) = false ∧ r (m + 1) = (r m).beginStep

/-- Every run comes to rest: a step of its own leaves less to do, and that cannot go on for ever. -/
theorem IsRun.exists_restsFrom {r : Nat → State} (hr : IsRun r) : ∃ n, RestsFrom r n := by
  obtain ⟨_, ⟨n, rfl⟩, hmin⟩ := wellFounded_lt.has_min (Set.range fun n => work (r n)) ⟨_, 0, rfl⟩
  have hleast (m : Nat) : ¬work (r m) < work (r n) := hmin _ ⟨m, rfl⟩
  have hle (m : Nat) (hm : n ≤ m) : work (r m) ≤ work (r n) := by
    induction m, hm using Nat.le_induction with
    | base => exact le_rfl
    | succ m _ ih =>
      rcases step_progress (hr m) with ⟨-, e⟩ | ⟨-, hlt⟩
      · rw [e]; exact ih
      · exact hlt.le.trans ih
  refine ⟨n, fun m hm => ?_⟩
  rcases step_progress (hr m) with h | ⟨-, hlt⟩
  · exact h
  · exact absurd (hlt.trans_le (hle m hm)) (hleast (m + 1))

theorem IsRun.inv {r : Nat → State} (hr : IsRun r) (hi : Inv (r 0)) (n : Nat) : Inv (r n) := by
  induction n with
  | zero => exact hi
  | succ n ih => exact invariantIsKept _ _ ih (hr n)

section Rest

variable {r : Nat → State} {n m : Nat}

/-- At rest no turn comes to be enabled, and none ceases to be. -/
theorem RestsFrom.turnEnabled_eq (h : RestsFrom r n) (hm : n ≤ m) (tn : Turn) :
    turnEnabled tn (r m) = turnEnabled tn (r n) := by
  induction m, hm using Nat.le_induction with
  | base => rfl
  | succ m hm ih => rw [(h m hm).2, turnEnabled_beginStep, ih]

/-- At rest SHIFT has no enabled step, where fairness would have it taken (R145). -/
theorem RestsFrom.shift_disabled (h : RestsFrom r n) (hf : WeaklyFair r) (hm : n ≤ m) :
    ∀ tn ∈ shiftTurns, turnEnabled tn (r m) = false := by
  intro tn ht
  rw [h.turnEnabled_eq hm]
  by_contra he
  have henabled (k : Nat) (hk : n ≤ k) : turnEnabled tn (r k) = true := by
    rw [h.turnEnabled_eq hk]
    simpa using he
  obtain ⟨k, hk, hturn⟩ := hf tn ht n henabled
  have hdisabled := (h k hk).1
  rw [hturn, henabled k hk] at hdisabled
  cases hdisabled

/-- At rest neither HOST nor SEQ has an enabled step, where the run goes on while one has (log entry 32). -/
theorem RestsFrom.host_seq_disabled (h : RestsFrom r n) (hp : Proceeds r) (hm : n ≤ m) :
    turnEnabled .host (r m) = false ∧ turnEnabled .seq (r m) = false := by
  by_contra he
  have henabled : turnEnabled .host (r m) = true ∨ turnEnabled .seq (r m) = true := by
    simpa only [not_and_or, Bool.not_eq_false] using he
  obtain ⟨k, hk, hturn⟩ := hp m henabled
  rw [(h k (hm.trans hk)).1] at hturn
  cases hturn

/-- A run at rest that is fair to SHIFT and goes on while it can has ended (R276). -/
theorem RestsFrom.ended (h : RestsFrom r n) (hf : WeaklyFair r) (hp : Proceeds r) (hm : n ≤ m) : Ended (r m) := by
  obtain ⟨hhost, hseq⟩ := h.host_seq_disabled hp hm
  have hin : (r m).hostIn = [] := by simpa [turnEnabled] using hhost
  exact ⟨by simp [hin], hseq, h.shift_disabled hf hm⟩

end Rest

/-- A block whose SEQ has no enabled step and does not hold runs no request (R121). -/
theorem Inv.not_busy {s : State} (hi : Inv s) (hd : turnEnabled .seq s = false) (hh : seqHolding s = false) :
    s.busy = false := by
  by_contra hb
  have hq : s.q ≠ [] := hi.busy_iff.1 (by simpa using hb)
  have hn : s.quiescent = false := by
    by_contra hn
    exact hq (hi.quiet (by simpa using hn))
  simp [turnEnabled, seqEnabled, hq, hn, hh] at hd

/-! ### The wait for a byte sent -/

/-- A byte is in flight: in the transmit register or in the shift register (R131). -/
def InFlight (s : State) : Prop := s.txbuf ≠ none ∨ s.shift ≠ none

/-- All is sent: TXC is 1 and nothing is in flight (R33). -/
def AllSent (s : State) : Prop := s.txc = true ∧ s.txbuf = none ∧ s.shift = none

theorem InFlight.txc {s : State} (h : InFlight s) (hi : Inv s) : s.txc = false := by
  by_contra ht
  obtain ⟨htx, hsh⟩ := hi.txc_idle (by simpa using ht)
  exact h.elim (absurd htx) (absurd hsh)

theorem ShiftIdle.not_inFlight {s : State} (h : ShiftIdle s) : ¬InFlight s := fun hf =>
  hf.elim (absurd h.txbuf) (absurd h.shift)

/-- A block with a byte in flight is configured (R132). -/
theorem InFlight.enabled {s : State} (h : InFlight s) (hi : Inv s) : s.pctrl.enable = true := by
  by_contra he
  obtain ⟨htx, hsh⟩ := hi.disabled_idle (by simpa using he)
  exact h.elim (absurd htx) (absurd hsh)

theorem InFlight.of_kept {s t : State} (h : InFlight s) (hk : TransmitKept s t) : InFlight t := by
  rwa [InFlight, hk.txbuf, hk.shift]

/-- SHIFT drops no byte: with one in flight its step leaves one in flight, or has sent the last (R141-R143). -/
theorem InFlight.shift_move {s t : State} {tn : Turn} (h : InFlight s) (hw : s.swrstBusy = false)
    (ht : tn ∈ shiftTurns) (hm : Move s tn t) : InFlight t ∨ AllSent t := by
  cases hm with
  | hostIdle | host | seq => simp [shiftTurns] at ht
  | shReset =>
    rcases shReset_cases s with ⟨-, e⟩ | ⟨hw', -⟩
    · rw [e]; exact .inl h
    · simp [hw] at hw'
  | shLoad =>
    rcases shLoad_cases s with ⟨-, e⟩ | ⟨v, -, -, -, -, e⟩ <;> rw [e]
    · exact .inl h
    · exact .inl (.inr (by simp))
  | shBit =>
    rcases shBit_cases s with ⟨-, e⟩ | ⟨r, -, -, e⟩ <;> rw [e]
    · exact .inl h
    · exact .inl (.inr (by simp))
  | shDone t hm =>
    cases hm with
    | stay => exact .inl h
    | done r m hs hl hd =>
      by_cases htx : s.txbuf = none
      · exact .inr ⟨by simp [shDone, htx], htx, rfl⟩
      · exact .inl (.inl htx)

/-- At a wait for a byte in flight, a step keeps one in flight, or has sent the last (R143). -/
theorem InFlight.after_step {s t : State} {rest : List MicroOp} (h : InFlight s) (hi : Inv s) (hw : AtIdleWait rest s)
    (hs : step s = .next t) : InFlight t ∨ AllSent t := by
  by_cases hturn : s.nextTurn ∈ shiftTurns
  · obtain ⟨tn, rfl, hm⟩ := step_move hs
    have hb : InFlight s.beginStep := h
    exact hb.shift_move (hi.swrstBusy_of_enabled (h.enabled hi)) hturn hm
  · exact .inl (h.of_kept (hw.transmitKept (h.txc hi) hturn hs))

/-- A wait for a byte in flight goes on with one in flight, or ends with all sent. -/
theorem IsRun.inFlight_or_allSent {r : Nat → State} {rest : List MicroOp} (hr : IsRun r) (hi : Inv (r 0))
    (hw : AtIdleWait rest (r 0)) (hf : InFlight (r 0)) (n : Nat) :
    (∃ m, AllSent (r m)) ∨ (AtIdleWait rest (r n) ∧ InFlight (r n)) := by
  induction n with
  | zero => exact .inr ⟨hw, hf⟩
  | succ n ih =>
    rcases ih with h | ⟨hw, hf⟩
    · exact .inl h
    have hin := hr.inv hi n
    rcases hf.after_step hin hw (hr n) with hf' | hsent
    · exact .inr ⟨hw.after_step hin (hf.txc hin) (hr n), hf'⟩
    · exact .inl ⟨n + 1, hsent⟩

/-- Settles O56: every run comes to rest, and fairness then has SHIFT's registers at rest too, which ends each wait. -/
theorem responsivePeripheralLiftsWaits : Obligations.ResponsivePeripheralLiftsWaits := by
  intro r hr hlive hp hi
  have hfair : WeaklyFair r := hlive hp
  obtain ⟨n, hrest⟩ := hr.exists_restsFrom
  have hidle : ShiftIdle (r n) := (hr.inv hi n).shiftIdle (hrest.shift_disabled hfair le_rfl)
  refine ⟨fun _ => ⟨n, hidle.swrstBusy⟩, fun hq hf => ?_,
    fun _ _ => ⟨n, (hr.inv hi n).dre_iff.2 hidle.txbuf⟩,
    fun hproc => ⟨⟨n, hrest.ended hfair hproc le_rfl⟩, fun hfree => ?_⟩⟩
  · obtain ⟨rest, hq⟩ := List.head?_eq_some_iff.1 hq
    rcases hr.inFlight_or_allSent hi (.inr hq) hf n with hsent | ⟨-, hf⟩
    · exact hsent
    · exact absurd hf hidle.not_inFlight
  · obtain ⟨m, hm, hh⟩ := hfree n
    obtain ⟨-, hseq⟩ := hrest.host_seq_disabled hproc hm
    exact ⟨m, hrest.ended hfair hproc hm, (hr.inv hi m).not_busy hseq hh⟩

end Sys2Proof.Machine

namespace Sys2Proof.Machine

/-! ### Rows of frames: their micro-ops and their events -/

/-- The micro-ops of a row of frames (R161, R162). -/
def framesOps (fs : List (Mode × List Byte)) : List MicroOp := (fs.map fun f => frame f.1 f.2).flatten

/-- The events of a row of closed frames (R41). -/
def framesEvents (fs : List (Mode × List Byte)) : List Event := (fs.map fun f => frameEvents f.1 f.2).flatten

/-- The mode line after a row of frames: the last frame's mode, or as it was (R133). -/
def endMode (d : Option Mode) (fs : List (Mode × List Byte)) : Option Mode := fs.getLast?.map Prod.fst <|> d

@[simp] theorem framesOps_nil : framesOps [] = [] := rfl

@[simp] theorem framesOps_cons (f : Mode × List Byte) (fs : List (Mode × List Byte)) :
    framesOps (f :: fs) = frame f.1 f.2 ++ framesOps fs := rfl

@[simp] theorem framesOps_append (fs gs : List (Mode × List Byte)) :
    framesOps (fs ++ gs) = framesOps fs ++ framesOps gs := by
  simp [framesOps]

@[simp] theorem framesEvents_nil : framesEvents [] = [] := rfl

@[simp] theorem framesEvents_cons (f : Mode × List Byte) (fs : List (Mode × List Byte)) :
    framesEvents (f :: fs) = frameEvents f.1 f.2 ++ framesEvents fs := rfl

@[simp] theorem framesEvents_append (fs gs : List (Mode × List Byte)) :
    framesEvents (fs ++ gs) = framesEvents fs ++ framesEvents gs := by
  simp [framesEvents]

@[simp] theorem endMode_nil (d : Option Mode) : endMode d [] = d := rfl

@[simp] theorem endMode_cons (d : Option Mode) (f : Mode × List Byte) (fs : List (Mode × List Byte)) :
    endMode d (f :: fs) = endMode (some f.1) fs := by
  cases fs with
  | nil => rfl
  | cons g fs => rw [endMode, endMode, List.getLast?_cons_cons, List.getLast?_cons]; rfl

theorem queueEvents_sends (m : Mode) (bs : List Byte) (r : List MicroOp) :
    queueEvents (some m) (bs.map .send ++ r) = bs.map (Event.byte m) ++ queueEvents (some m) r := by
  induction bs with
  | nil => rfl
  | cons v bs ih => simp [queueEvents, ih]

/-- A frame's micro-ops add the events of a closed frame, and leave the mode line at the frame's mode. -/
@[simp] theorem queueEvents_frame (d : Option Mode) (m : Mode) (bs : List Byte) (r : List MicroOp) :
    queueEvents d (frame m bs ++ r) = frameEvents m bs ++ queueEvents (some m) r := by
  simp [frame, frameEvents, queueEvents, queueEvents_sends]

theorem queueEvents_framesOps_append (d : Option Mode) (fs : List (Mode × List Byte)) (r : List MicroOp) :
    queueEvents d (framesOps fs ++ r) = framesEvents fs ++ queueEvents (endMode d fs) r := by
  induction fs generalizing d with
  | nil => rfl
  | cons f fs ih => simp [ih]

@[simp] theorem queueEvents_nil (d : Option Mode) : queueEvents d [] = [] := by cases d <;> rfl

theorem queueEvents_framesOps (d : Option Mode) (fs : List (Mode × List Byte)) :
    queueEvents d (framesOps fs) = framesEvents fs := by
  simpa using queueEvents_framesOps_append d fs []

@[simp] theorem queueEvents_state (d : Option Mode) (t : SeqState) (r : List MicroOp) :
    queueEvents d (.state t :: r) = queueEvents d r := by cases d <;> rfl

/-- Configure adds no event (R129). -/
@[simp] theorem queueEvents_configureOps (d : Option Mode) (r : List MicroOp) :
    queueEvents d (configureOps ++ r) = queueEvents d r := by cases d <;> rfl

/-! ### The frames of the expansions -/

/-- The pages a mask selects, in ascending order (R170). -/
def selectedPages (mask : Byte) : List Nat := (List.range 8).filter fun k => mask.getLsbD k

@[simp] theorem mem_selectedPages {mask : Byte} {k : Nat} : k ∈ selectedPages mask ↔ k < 8 ∧ mask.getLsbD k = true := by
  simp [selectedPages]

theorem selectedPages_pairwise (mask : Byte) : (selectedPages mask).Pairwise (· < ·) :=
  List.pairwise_lt_range.filter _

theorem selectedPages_ones : selectedPages 0xFF = List.range 8 := by decide

theorem selectedPages_eq_nil {mask : Byte} : selectedPages mask = [] ↔ mask = 0 := by
  refine ⟨fun h => ?_, by rintro rfl; rfl⟩
  refine BitVec.eq_of_getLsbD_eq fun k hk => ?_
  have hnot : k ∉ selectedPages mask := by simp [h]
  simpa [hk] using hnot

/-- The four frames of a cleared page: mode, page, column range and zeros (R168, R170). -/
def pageFrames (t : Params) (k : Nat) : List (Mode × List Byte) :=
  [(.cmd, t.addrModeCmd), (.cmd, [BitVec.ofNat 8 (0xB0 + k)]), (.cmd, [0x21, 0x00, 0x7F]), (.dat, List.replicate 128 0)]

/-- The frames of the clear of a row of pages. -/
def clearFrames (t : Params) (pages : List Nat) : List (Mode × List Byte) := pages.flatMap (pageFrames t)

theorem pageOpcode_ofNat (k : Nat) : pageOpcode (BitVec.ofNat 8 k) = BitVec.ofNat 8 (0xB0 + k) := by
  rw [BitVec.ofNat_add]
  rfl

theorem clearPageOps_eq (t : Params) (k : Nat) : clearPageOps t k = framesOps (pageFrames t k) := by
  simp [clearPageOps, addressOps, pageFrames, cmdFrame, dataFrame, pageSelectBytes, columnRangeBytes, pageOpcode_ofNat,
    Config.columnRangeOpcode, Config.endColumn, columnOfCell, zeros, Config.clearBytes]

/-- A clear is the four frames of each selected page in turn (R170). -/
theorem clearOps_eq (t : Params) (mask : Byte) : clearOps t mask = framesOps (clearFrames t (selectedPages mask)) := by
  rw [clearOps, selectedPages, show Config.pages = 8 from rfl]
  induction List.range 8 with
  | nil => rfl
  | cons k l ih =>
    cases hk : mask.getLsbD k <;> simpa [maskBit, hk, clearFrames, clearPageOps_eq] using ih

theorem framesOps_clearFrames (t : Params) (pages : List Nat) :
    framesOps (clearFrames t pages) = pages.flatMap fun k => framesOps (pageFrames t k) := by
  induction pages with
  | nil => rfl
  | cons k pages ih => rw [clearFrames, List.flatMap_cons, framesOps_append, List.flatMap_cons, ← ih, clearFrames]

/-- The events of a cleared page (R168, R170). -/
def pageEvents (t : Params) (k : Nat) : List Event :=
  frameEvents .cmd t.addrModeCmd ++ frameEvents .cmd [BitVec.ofNat 8 (0xB0 + k)] ++
    frameEvents .cmd [0x21, 0x00, 0x7F] ++ frameEvents .dat (List.replicate 128 0)

theorem framesEvents_pageFrames (t : Params) (k : Nat) : framesEvents (pageFrames t k) = pageEvents t k := by
  simp only [pageFrames, framesEvents_cons, framesEvents_nil, pageEvents, List.append_assoc, List.append_nil]

theorem framesEvents_clearFrames (t : Params) (pages : List Nat) :
    framesEvents (clearFrames t pages) = pages.flatMap (pageEvents t) := by
  induction pages with
  | nil => rfl
  | cons k pages ih =>
    rw [clearFrames, List.flatMap_cons, framesEvents_append, framesEvents_pageFrames, List.flatMap_cons, ← ih,
      clearFrames]

/-- A clear adds the events of its pages in turn (R170). -/
theorem queueEvents_clearOps (d : Option Mode) (t : Params) (mask : Byte) :
    queueEvents d (clearOps t mask) = (selectedPages mask).flatMap (pageEvents t) := by
  rw [clearOps_eq, queueEvents_framesOps, framesEvents_clearFrames]

/-- The frames between the two `u_STATE`s of a power-up (R165). -/
def powerUpFrames (t : Params) : List (Mode × List Byte) :=
  t.initTable.map (Prod.mk .cmd) ++ clearFrames t (List.range 8) ++ [(.cmd, t.addrModeCmd), (.cmd, t.displayOnCmd)]

theorem framesOps_map_mk (m : Mode) (l : List (List Byte)) :
    framesOps (l.map (Prod.mk m)) = (l.map (frame m)).flatten := by
  simp [framesOps, Function.comp_def]

theorem framesEvents_map_mk (m : Mode) (l : List (List Byte)) :
    framesEvents (l.map (Prod.mk m)) = (l.map (frameEvents m)).flatten := by
  simp [framesEvents, Function.comp_def]

theorem powerUpBusOps_eq (t : Params) : powerUpBusOps t = framesOps (powerUpFrames t) := by
  rw [powerUpBusOps, clearOps_eq, selectedPages_ones, powerUpFrames, framesOps_append, framesOps_append,
    framesOps_map_mk, ← List.flatMap_def]
  simp [show cmdFrame = frame .cmd from rfl]

/-- A power-up adds the init frames, the eight cleared pages, the addressing-mode and the Display On frame (R165). -/
theorem framesEvents_powerUpFrames (t : Params) : framesEvents (powerUpFrames t) =
    (t.initTable.map (frameEvents .cmd)).flatten ++ ((List.range 8).map (pageEvents t)).flatten ++
      frameEvents .cmd t.addrModeCmd ++ frameEvents .cmd t.displayOnCmd := by
  simp only [powerUpFrames, framesEvents_append, framesEvents_map_mk, framesEvents_clearFrames, List.flatMap_def,
    framesEvents_cons, framesEvents_nil, List.append_assoc, List.append_nil]

end Sys2Proof.Machine

namespace Sys2Proof.Machine

/-! ### Queues that SEQ runs without a fault -/

/-- What SEQ's checks read (R132-R137), as far as the micro-ops run so far settle it: `enabled` and `sent` may be false
where the peripheral is enabled or TXC is 1, the other fields are the state's. -/
structure QueueContext where
  enabled : Bool
  frameOpen : Bool
  mode : Option Mode
  sent : Bool
  engine : SeqState

/-- A context tells the truth about a state. TXC is claimed of an enabled peripheral alone. -/
structure QueueContext.Describes (c : QueueContext) (s : State) : Prop where
  enabled : c.enabled = true → s.pctrl.enable = true
  csN : s.csN = !c.frameOpen
  dc : s.dc = c.mode
  sent : c.sent = true → s.pctrl.enable = true ∧ s.txc = true
  engine : s.seqState = c.engine

/-- The context after a micro-op, or none where its checks are not known to pass (R126-R137, R163). -/
def QueueContext.next? (c : QueueContext) : MicroOp → Option QueueContext
  | .swrst => some { c with enabled := false, sent := false }
  | .waitSwrst => some c
  | .program => some { c with enabled := true }
  | .setDc m => if c.enabled && !c.frameOpen then some { c with mode := some m } else none
  | .select true => if c.enabled && !c.frameOpen && c.mode.isSome then some { c with frameOpen := true } else none
  | .select false => if c.enabled && c.frameOpen && c.sent then some { c with frameOpen := false } else none
  | .send _ => if c.enabled && c.frameOpen then some { c with sent := false } else none
  | .waitIdle => if c.enabled then some { c with sent := true } else none
  | .state t => some { c with engine := t }

/-- The context after a queue, or none where a check is not known to pass. -/
def QueueContext.run? : QueueContext → List MicroOp → Option QueueContext
  | c, [] => some c
  | c, u :: r => (c.next? u).bind (·.run? r)

theorem QueueContext.run?_cons {c e : QueueContext} {u : MicroOp} {r : List MicroOp} :
    c.run? (u :: r) = some e ↔ ∃ c', c.next? u = some c' ∧ c'.run? r = some e := Option.bind_eq_some_iff

theorem QueueContext.run?_append (c : QueueContext) (l r : List MicroOp) :
    c.run? (l ++ r) = (c.run? l).bind (·.run? r) := by
  induction l generalizing c with
  | nil => rfl
  | cons u l ih =>
    cases h : c.next? u with
    | none => simp [run?, h]
    | some c' => simpa [run?, h] using ih c'

/-- What `next?` checked is what the micro-op checks: it completes or holds (R126-R137). -/
theorem QueueContext.Describes.done_or_hold {c c' : QueueContext} {s : State} {u : MicroOp} (hc : c.Describes s)
    (hi : Inv s) (hn : c.next? u = some c') : (∃ s', MicroDone s u s') ∨ microStep u s = .hold := by
  obtain ⟨henabled, hcs, hdc, hsent, -⟩ := hc
  cases u with
  | swrst => exact .inl ⟨_, .swrst⟩
  | waitSwrst =>
    cases hw : s.swrstBusy with
    | false => exact .inl ⟨_, .waitSwrst hw⟩
    | true => exact .inr (microStep_hold_iff.2 (.inl ⟨rfl, hw⟩))
  | program => exact .inl ⟨_, .program⟩
  | setDc m =>
    simp only [next?, Option.ite_none_right_eq_some, Bool.and_eq_true, Bool.not_eq_true'] at hn
    obtain ⟨⟨he, ho⟩, -⟩ := hn
    exact .inl ⟨_, .setDc m (henabled he) (by simp [hcs, ho])⟩
  | select a =>
    cases a with
    | true =>
      simp only [next?, Option.ite_none_right_eq_some, Bool.and_eq_true, Bool.not_eq_true'] at hn
      obtain ⟨⟨⟨he, ho⟩, hmode⟩, -⟩ := hn
      obtain ⟨m, hm⟩ := Option.isSome_iff_exists.1 hmode
      exact .inl ⟨_, .openFrame m (henabled he) (by simp [hcs, ho]) (hdc.trans hm)⟩
    | false =>
      simp only [next?, Option.ite_none_right_eq_some, Bool.and_eq_true] at hn
      obtain ⟨⟨⟨he, ho⟩, ht⟩, -⟩ := hn
      obtain ⟨htx, hsh⟩ := hi.txc_idle (hsent ht).2
      exact .inl ⟨_, .closeFrame (henabled he) (by simp [hcs, ho]) htx hsh⟩
  | send v =>
    simp only [next?, Option.ite_none_right_eq_some, Bool.and_eq_true] at hn
    obtain ⟨⟨he, ho⟩, -⟩ := hn
    have hlow : s.csN = false := by simp [hcs, ho]
    cases hd : s.dre with
    | true => exact .inl ⟨_, .send v (henabled he) hlow hd⟩
    | false => exact .inr (microStep_hold_iff.2 (.inr (.inl ⟨⟨v, rfl⟩, henabled he, hlow, hd⟩)))
  | waitIdle =>
    obtain ⟨he, -⟩ := Option.ite_none_right_eq_some.1 hn
    cases ht : s.txc with
    | true => exact .inl ⟨_, .waitIdle (henabled he) ht⟩
    | false => exact .inr (microStep_hold_iff.2 (.inr (.inr ⟨rfl, henabled he, ht⟩)))
  | state t => exact .inl ⟨_, .state t⟩

/-- A completed micro-op leaves the state as `next?` foretells. -/
theorem QueueContext.Describes.microDone {c c' : QueueContext} {s s' : State} {u : MicroOp} (hc : c.Describes s)
    (hn : c.next? u = some c') (hd : MicroDone s u s') : c'.Describes s' := by
  cases hd with
  | swrst => cases hn; exact { hc with enabled := by simp, sent := by simp }
  | waitSwrst => cases hn; exact hc
  | program => cases hn; exact { hc with enabled := fun _ => rfl, sent := fun h => ⟨rfl, (hc.sent h).2⟩ }
  | state t => cases hn; exact { hc with engine := rfl }
  | setDc m =>
    obtain ⟨-, ⟨⟩⟩ := Option.ite_none_right_eq_some.1 hn
    exact { hc with dc := rfl }
  | openFrame m =>
    obtain ⟨-, ⟨⟩⟩ := Option.ite_none_right_eq_some.1 hn
    exact { hc with csN := rfl }
  | closeFrame =>
    obtain ⟨-, ⟨⟩⟩ := Option.ite_none_right_eq_some.1 hn
    exact { hc with csN := rfl }
  | send v =>
    obtain ⟨-, ⟨⟩⟩ := Option.ite_none_right_eq_some.1 hn
    exact { hc with sent := by simp }
  | waitIdle he ht =>
    obtain ⟨-, ⟨⟩⟩ := Option.ite_none_right_eq_some.1 hn
    exact { hc with sent := fun _ => ⟨he, ht⟩ }

/-- A step of SHIFT leaves an enabled peripheral enabled, and its TXC at 1 where it was (R140-R143). -/
theorem shift_keeps_enabled {s t : State} {tn : Turn} (hi : Inv s) (hm : Move s tn t) (ht : tn ∈ shiftTurns)
    (he : s.pctrl.enable = true) : t.pctrl.enable = true ∧ (s.txc = true → t.txc = true) := by
  cases hm with
  | hostIdle | host | seq => simp [shiftTurns] at ht
  | shReset =>
    rcases shReset_cases s with ⟨-, e⟩ | ⟨hw, -⟩
    · rw [e]; exact ⟨he, id⟩
    · simp [hi.swrstBusy_of_enabled he] at hw
  | shLoad => rcases shLoad_cases s with ⟨-, e⟩ | ⟨v, -, -, -, -, e⟩ <;> rw [e] <;> exact ⟨he, id⟩
  | shBit => rcases shBit_cases s with ⟨-, e⟩ | ⟨r, -, -, e⟩ <;> rw [e] <;> exact ⟨he, id⟩
  | shDone t hm =>
    cases hm with
    | stay => exact ⟨he, id⟩
    | done => exact ⟨he, fun h => by simp [shDone, h]⟩

/-- A step of SHIFT keeps SHIFT's frame and the host's accesses (R139). -/
theorem Move.shift_kept {s t : State} {tn : Turn} (hm : Move s tn t) (ht : tn ∈ shiftTurns) :
    ShiftFrame s t ∧ t.hostIn = s.hostIn := by
  cases hm with
  | hostIdle | host | seq => simp [shiftTurns] at ht
  | shReset => exact ⟨shReset_frame s, by rcases shReset_cases s with ⟨-, e⟩ | ⟨-, e⟩ <;> rw [e]⟩
  | shLoad => exact ⟨shLoad_frame s, by rcases shLoad_cases s with ⟨-, e⟩ | ⟨v, -, -, -, -, e⟩ <;> rw [e]⟩
  | shBit => exact ⟨shBit_frame s, by rcases shBit_cases s with ⟨-, e⟩ | ⟨r, -, -, e⟩ <;> rw [e]⟩
  | shDone t hm => exact ⟨hm.frame, by cases hm <;> rfl⟩

theorem QueueContext.Describes.shift {c : QueueContext} {s t : State} {tn : Turn} (hc : c.Describes s) (hi : Inv s)
    (hm : Move s tn t) (ht : tn ∈ shiftTurns) : c.Describes t := by
  obtain ⟨hf, -⟩ := hm.shift_kept ht
  have hkeep := shift_keeps_enabled hi hm ht
  exact
    { enabled := fun h => (hkeep (hc.enabled h)).1
      csN := hf.csN.trans hc.csN
      dc := hf.dc.trans hc.dc
      sent := fun h => (hc.sent h).imp (fun he => (hkeep he).1) (fun htx => (hkeep (hc.sent h).1).2 htx)
      engine := hf.seqState.trans hc.engine }

/-- A run of a queue that is on its way to the context `e`: no fault or refusal, no host access to come, and the rest of
the queue passes every check. -/
structure RunsTo (e : QueueContext) (s : State) : Prop where
  inv : Inv s
  hostIn : s.hostIn = []
  fault : s.fault = 0
  refused : s.refused = false
  context : ∃ c : QueueContext, c.Describes s ∧ c.run? s.q = some e

theorem RunsTo.beginStep {e : QueueContext} {s : State} (h : RunsTo e s) : RunsTo e s.beginStep :=
  let ⟨c, ⟨he, hcs, hdc, ht, hs⟩, hr⟩ := h.context
  ⟨h.inv.beginStep, h.hostIn, h.fault, h.refused, c, ⟨he, hcs, hdc, ht, hs⟩, hr⟩

theorem RunsTo.seqMove {e : QueueContext} {s t : State} (h : RunsTo e s) (hm : SeqMove s t) : RunsTo e t := by
  have hinv := h.inv.seqMove hm
  obtain ⟨hi, hin, hfault, hrefused, c, hc, hr⟩ := h
  cases hm with
  | stay => exact ⟨hi, hin, hfault, hrefused, c, hc, hr⟩
  | done u rest s' hq hn hd =>
    obtain ⟨c', hnext, hr'⟩ := QueueContext.run?_cons.1 (hq ▸ hr)
    obtain ⟨he, hcs, hdc, ht, hs⟩ := hc.microDone hnext hd
    exact ⟨hinv, hd.hostIn_eq.trans hin, hd.fault_eq.trans hfault, hd.refused_eq.trans hrefused, c',
      ⟨he, hcs, hdc, ht, hs⟩, hr'⟩
  | raise u rest f hq hn hraise =>
    obtain ⟨c', hnext, -⟩ := QueueContext.run?_cons.1 (hq ▸ hr)
    rcases hc.done_or_hold hi hnext with ⟨s', hd⟩ | hhold
    · simp [hd.microStep_eq] at hraise
    · simp [hhold] at hraise

theorem RunsTo.shiftMove {e : QueueContext} {s t : State} {tn : Turn} (h : RunsTo e s) (hstep : Inv t)
    (hm : Move s tn t) (ht : tn ∈ shiftTurns) : RunsTo e t := by
  obtain ⟨hi, hin, hfault, hrefused, c, hc, hr⟩ := h
  obtain ⟨hf, hhost⟩ := hm.shift_kept ht
  exact ⟨hstep, hhost.trans hin, hf.fault.trans hfault, hf.refused.trans hrefused, c,
    hc.shift hi hm ht, hf.q ▸ hr⟩

theorem SeqMove.q_suffix {s t : State} (h : SeqMove s t) : t.q <:+ s.q := by
  cases h with
  | stay => exact List.suffix_refl _
  | done u rest s' hq => exact hq ▸ List.suffix_cons u rest
  | raise => exact List.nil_suffix

/-- A step goes on with the run, and takes at most the head off the queue (R121). -/
theorem RunsTo.after_step {e : QueueContext} {s t : State} (h : RunsTo e s) (hs : step s = .next t) :
    RunsTo e t ∧ t.q <:+ s.q := by
  have hinv := invariantIsKept s t h.inv hs
  obtain ⟨tn, -, hm⟩ := step_move hs
  rcases turn_byAgent tn with rfl | rfl | ht
  · cases hm with
    | hostIdle => exact ⟨h.beginStep, List.suffix_refl _⟩
    | host a rest t hh => simp [h.hostIn] at hh
  · cases hm with
    | seq t hm => exact ⟨h.beginStep.seqMove hm, hm.q_suffix⟩
  · exact ⟨h.beginStep.shiftMove hinv hm ht, (hm.shift_kept ht).1.q ▸ List.suffix_refl _⟩

/-- A run to a context never faults, has the same trace to come throughout, and only shortens its queue from the head. -/
theorem RunsTo.run {e : QueueContext} {s t : State} {n : Nat} (h : RunsTo e s) (hrun : core.run n s = .next t) :
    RunsTo e t ∧ projectedTrace t = projectedTrace s ∧ t.q <:+ s.q := by
  refine core_run_induct (P := fun t => RunsTo e t ∧ projectedTrace t = projectedTrace s ∧ t.q <:+ s.q) ?_
    ⟨h, rfl, List.suffix_refl _⟩ hrun
  rintro a b ⟨ha, htrace, hq⟩ hs
  obtain ⟨hb, hq'⟩ := ha.after_step hs
  have hkept := projectedTraceIsConstant a b ha.inv ha.hostIn hs (hb.fault.trans ha.fault.symm)
  exact ⟨hb, hkept.trans htrace, hq'.trans hq⟩

/-- Where the queue is empty, the run has come to its context. -/
theorem RunsTo.describes_of_empty {e : QueueContext} {s : State} (h : RunsTo e s) (hq : s.q = []) : e.Describes s := by
  obtain ⟨c, hc, hr⟩ := h.context
  rw [hq] at hr
  cases hr
  exact hc

theorem projectedTrace_of_released {s : State} (hi : Inv s) (hc : s.csN = true) :
    projectedTrace s = s.trace ++ queueEvents s.dc s.q := by
  obtain ⟨htx, hsh⟩ := hi.idle_of_released hc
  simp [projectedTrace, inFlightEvents_eq_nil htx hsh]

/-! ### Frames pass every check -/

/-- A configured block with no frame open. -/
def QueueContext.released (d : Option Mode) (sent : Bool) (a : SeqState) : QueueContext := ⟨true, false, d, sent, a⟩

theorem QueueContext.released_describes {s : State} (he : s.pctrl.enable = true) (hc : s.csN = true) :
    (released s.dc false s.seqState).Describes s := ⟨fun _ => he, hc, rfl, nofun, rfl⟩

theorem QueueContext.run?_sends (d : Option Mode) (sent : Bool) (a : SeqState) (bs : List Byte) (r : List MicroOp) :
    ∃ b, run? ⟨true, true, d, sent, a⟩ (bs.map .send ++ r) = run? ⟨true, true, d, b, a⟩ r := by
  induction bs generalizing sent with
  | nil => exact ⟨sent, rfl⟩
  | cons v bs ih => exact ih false

/-- A frame passes every check where the peripheral is enabled and no frame is open (R161, R162). -/
theorem QueueContext.run?_frame (d : Option Mode) (sent : Bool) (a : SeqState) (m : Mode) (bs : List Byte) :
    (released d sent a).run? (frame m bs) = some (released (some m) true a) := by
  obtain ⟨b, hb⟩ := run?_sends (some m) sent a bs [.waitIdle, .select false]
  exact hb

theorem QueueContext.run?_framesOps (d : Option Mode) (sent : Bool) (a : SeqState) (fs : List (Mode × List Byte)) :
    (released d sent a).run? (framesOps fs) = some (released (endMode d fs) (sent || !fs.isEmpty) a) := by
  induction fs generalizing d sent with
  | nil => simp [run?]
  | cons f fs ih => simp [run?_append, run?_frame, ih]

/-- Settles O50: the frames pass every check of SEQ, so the run ends in the context after them and its trace to come
stays the one it began with. -/
theorem frameRunsOnEverySchedule : Obligations.FrameRunsOnEverySchedule := by
  intro s t fs n hi hn hin hcs he hq hrun es
  obtain ⟨hfault, hrefused⟩ := (State.quiescent_false_iff s).1 hn
  have hruns : RunsTo (.released (endMode s.dc fs) (!fs.isEmpty) s.seqState) s :=
    ⟨hi, hin, hfault, hrefused, _, QueueContext.released_describes he hcs,
      hq ▸ QueueContext.run?_framesOps s.dc false s.seqState fs⟩
  have hevents : queueEvents s.dc s.q = es := hq ▸ queueEvents_framesOps s.dc fs
  obtain ⟨ht, htrace, -⟩ := hruns.run hrun
  rw [projectedTrace_of_released hi hcs, hevents] at htrace
  refine ⟨ht.fault, htrace, fun hempty => ?_⟩
  have hend := ht.describes_of_empty hempty
  refine ⟨?_, hend.csN, hend.dc⟩
  simpa [projectedTrace_of_released ht.inv hend.csN, hempty] using htrace

/-! ### The run of INIT -/

/-- The power-up passes every check in a configured block with no frame open, and leaves the engine READY (R165). -/
theorem QueueContext.run?_powerUpOps (d : Option Mode) (t : Params) :
    ∃ e, (released d false .poweredOff).run? (powerUpOps t) = some e ∧ e.engine = .ready := by
  have hframes := run?_framesOps d false .initializing (powerUpFrames t)
  refine ⟨released (endMode d (powerUpFrames t)) (!(powerUpFrames t).isEmpty) .ready, ?_, rfl⟩
  rw [powerUpOps_eq, powerUpBusOps_eq, run?_cons]
  refine ⟨released d false .initializing, rfl, ?_⟩
  rw [run?_append, hframes]
  rfl

/-- INIT's queue passes every check in a block with no frame open, and leaves the engine READY (R165). -/
theorem exists_context_initOps {s : State} (hi : Inv s) (hcs : s.csN = true)
    (hs : s.seqState = .uninit ∨ s.seqState = .poweredOff) :
    ∃ c e : QueueContext, c.Describes s ∧ c.run? (initOps s.params s.seqState) = some e ∧ e.engine = .ready := by
  obtain ⟨e, hrun, hready⟩ := QueueContext.run?_powerUpOps s.dc s.params
  rcases hs with hs | hs
  · refine ⟨⟨false, false, s.dc, false, .uninit⟩, e, ⟨by simp, hcs, rfl, by simp, hs⟩, ?_, hready⟩
    rw [hs]
    exact hrun
  · have he : s.pctrl.enable = true := hi.configured (by simp [hs])
    rw [hs]
    exact ⟨_, e, hs ▸ QueueContext.released_describes he hcs, hrun, hready⟩

/-- INIT's events are those of the power-up's frames (R165, R220). -/
theorem queueEvents_initOps (d : Option Mode) (t : Params) (a : SeqState) :
    queueEvents d (initOps t a) = framesEvents (powerUpFrames t) := by
  have hpower : queueEvents d (powerUpOps t) = framesEvents (powerUpFrames t) := by
    simp [powerUpOps_eq, powerUpBusOps_eq, queueEvents_framesOps_append]
  rw [initOps]
  split_ifs
  · rw [queueEvents_configureOps, hpower]
  · exact hpower

/-- Past the last transition no `u_STATE` is queued (R22). -/
theorem stateChain_ready {q : List MicroOp} (h : stateChain .ready q = true) (b : SeqState) : .state b ∉ q := by
  induction q with
  | nil => simp
  | cons u q ih =>
    cases u with
    | state b' => simp [stateChain_state, SeqState.succ?] at h
    | _ => simpa using ih h

/-- INIT's last micro-op makes the engine READY, so every rest of its queue holds it (R165). -/
theorem state_ready_mem_of_suffix {t : Params} {a : SeqState} {q : List MicroOp} (h : q <:+ initOps t a) (hq : q ≠ []) :
    .state .ready ∈ q := by
  obtain ⟨l, hl⟩ := h
  have hlast : (initOps t a).getLast? = some (.state .ready) := by
    rw [initOps, powerUpOps, ← List.append_assoc, List.getLast?_concat]
  rw [← hl, List.getLast?_append_of_ne_nil _ hq] at hlast
  exact List.mem_of_getLast? hlast

theorem expand_init_ops {s : State} (hs : s.seqState = .uninit ∨ s.seqState = .poweredOff) :
    expand .init s = some (.ops (initOps s.params s.seqState)) := by
  rcases hs with hs | hs <;> simp [expand, expandInit, hs]

/-- Settles O52: INIT's queue passes every check of SEQ, and its last micro-op is the one that makes the engine READY. -/
theorem initRunsOnEverySchedule : Obligations.InitRunsOnEverySchedule := by
  intro s u t n hi ha hin hcs hs hx hrun
  rw [exec_ops ha rfl (expand_init_ops hs)] at hx
  cases hx
  have hn := ha.quiescent
  obtain ⟨hfault, hrefused, hbusy⟩ := ha
  have hinv := hi.load hn hbusy (loadable_of_expand (expand_init_ops hs))
  obtain ⟨c, e, ⟨he, hcs', hdc, hsent, hengine⟩, hops, hready⟩ := exists_context_initOps hi hcs hs
  obtain ⟨ht, htrace, hsuffix⟩ :=
    (⟨hinv, hin, hfault, hrefused, c, ⟨he, hcs', hdc, hsent, hengine⟩, hops⟩ : RunsTo e _).run hrun
  rw [projectedTrace_of_released hinv hcs, queueEvents_initOps] at htrace
  refine ⟨ht.fault, ?_, fun hempty => ?_, fun hr => ?_⟩
  · show _ = s.trace ++ _ ++ ((List.range 8).map (pageEvents s.params)).flatten ++ _ ++ _
    rw [htrace, framesEvents_powerUpFrames]
    simp only [List.append_assoc]
  · exact (ht.describes_of_empty hempty).engine.trans hready
  · by_contra hne
    exact stateChain_ready (hr ▸ ht.inv.chain) .ready (state_ready_mem_of_suffix hsuffix hne)

end Sys2Proof.Machine

namespace Sys2Proof.Machine

/-! ### Counts of a clear -/

theorem countP_flatMap_of_const {f : Event → Bool} {g : Nat → List Event} {n : Nat} (h : ∀ a, (g a).countP f = n)
    (l : List Nat) : (l.flatMap g).countP f = n * l.length := by
  induction l with
  | nil => rfl
  | cons a l ih => simp [h a, ih, Nat.mul_add, Nat.add_comm]

theorem countP_frameEvents (f : Event → Bool) (m : Mode) (bs : List Byte) : (frameEvents m bs).countP f =
    (if f (.frameOpen m) then 1 else 0) + bs.countP (fun v => f (.byte m v)) + (if f .frameClose then 1 else 0) := by
  simp only [frameEvents, List.countP_cons, List.countP_append, List.countP_map, List.countP_nil, Function.comp_def]
  omega

theorem byte_mem_frameEvents {m n : Mode} {v : Byte} {bs : List Byte} :
    .byte n v ∈ frameEvents m bs ↔ n = m ∧ v ∈ bs := by
  simp [frameEvents, eq_comm, and_comm]

/-- The Data bytes of a cleared page are zeros (R170). -/
theorem eq_zero_of_dat_mem_pageEvents {p : Params} {k : Nat} {v : Byte} (h : .byte .dat v ∈ pageEvents p k) :
    v = 0 := by
  simp only [pageEvents, List.mem_append, byte_mem_frameEvents, reduceCtorEq, false_and, false_or, true_and] at h
  exact (List.mem_replicate.1 h).2

/-- Settles O12: each selected page adds three Command frames and one Data frame of 128 zeros. -/
theorem clearCounts : Obligations.ClearCounts := by
  intro p mask d es k
  have hes : es = (selectedPages mask).flatMap (pageEvents p) := queueEvents_clearOps d p mask
  have count {f : Event → Bool} {n : Nat} (h : ∀ i, (pageEvents p i).countP f = n) : es.countP f = n * k :=
    hes ▸ countP_flatMap_of_const h (selectedPages mask)
  refine ⟨count fun i => ?_, (count (n := 1) fun i => ?_).trans (Nat.one_mul k), count fun i => ?_, ?_,
    count fun i => ?_, fun v hv => ?_⟩
  · simp [pageEvents, countP_frameEvents]
  · simp [pageEvents, countP_frameEvents]
  · simp [pageEvents, countP_frameEvents]
  · rw [← List.countP_eq_length_filter, Nat.mul_comm]
    exact count fun i => by simp [pageEvents, countP_frameEvents]
  · simp [pageEvents, countP_frameEvents]
  · obtain ⟨i, -, hi⟩ := List.mem_flatMap.1 (hes ▸ hv)
    exact eq_zero_of_dat_mem_pageEvents hi

/-! ### Frames at the panel -/

theorem panelFold_append (p : Params) (pn : Panel) (l r : List Event) :
    panelFold p pn (l ++ r) = panelFold p (panelFold p pn l) r := List.foldl_append

/-- The panel sees the bytes of a frame alone (R70). -/
theorem panelFold_frameEvents (p : Params) (pn : Panel) (m : Mode) (bs : List Byte) :
    panelFold p pn (frameEvents m bs) = panelFold p pn (bs.map (.byte m)) := by
  show panelFold p pn (bs.map (.byte m) ++ [.frameClose]) = _
  rw [panelFold_append]
  rfl

/-- The RAM after `n` Data bytes `f 0`, `f 1`, … at the cursor (R75). -/
def Panel.ramAfter (pn : Panel) (f : Nat → Byte) : Nat → Memory
  | 0 => pn.ram
  | n + 1 => (pn.ramAfter f n).write (128 * pn.page.toNat + (pn.columnAfter n).toNat) (f n)

/-- A Data frame writes the RAM and moves the column (R66, R75). -/
theorem panelFold_dataFrame (p : Params) (pn : Panel) (f : Nat → Byte) (n : Nat) :
    panelFold p pn (frameEvents .dat ((List.range n).map f)) =
      { pn with ram := pn.ramAfter f n, col := pn.columnAfter n } := by
  rw [panelFold_frameEvents]
  induction n with
  | zero => rfl
  | succ n ih =>
    rw [List.range_succ, List.map_append, List.map_append, panelFold_append, ih]
    rfl

/-- The bytes after the first `k` leave an address that none of them falls on. -/
theorem Panel.read_ramAfter_of_ne {pn : Panel} {f : Nat → Byte} {a k n : Nat} (hkn : k ≤ n)
    (h : ∀ j, k ≤ j → j < n → a ≠ 128 * pn.page.toNat + (pn.columnAfter j).toNat) :
    (pn.ramAfter f n).read a = (pn.ramAfter f k).read a := by
  induction n, hkn using Nat.le_induction with
  | base => rfl
  | succ n hkn ih =>
    rw [ramAfter, Memory.read_write_other _ _ (h n hkn (by omega))]
    exact ih fun j hkj hj => h j hkj (by omega)

/-- A byte stands where it fell, unless a later one falls there too. -/
theorem Panel.read_ramAfter {pn : Panel} {f : Nat → Byte} {k n : Nat} (hk : k < n)
    (h : ∀ j, k < j → j < n → pn.columnAfter j ≠ pn.columnAfter k) :
    (pn.ramAfter f n).read (128 * pn.page.toNat + (pn.columnAfter k).toNat) = some (f k) := by
  rw [read_ramAfter_of_ne (k := k + 1) hk fun j hkj hj heq => h j hkj hj (BitVec.eq_of_toNat_eq (by omega))]
  exact Memory.read_write_same _ _ _

/-! ### The columns the cursor passes -/

/-- Before the window's end the column moves on by one (R75). -/
theorem Panel.columnAfter_succ_of_lt {pn : Panel} {k : Nat} (h : (pn.columnAfter k).toNat < pn.winEnd.toNat) :
    (pn.columnAfter (k + 1)).toNat = (pn.columnAfter k).toNat + 1 := by
  have hlt := pn.winEnd.isLt
  have hone : (1 : BitVec 7).toNat = 1 := rfl
  rw [columnAfter, if_neg (by rw [ge_iff_le, BitVec.le_def]; omega), BitVec.toNat_add, hone]
  omega

/-- Within the window the column counts up (R75). -/
theorem Panel.columnAfter_within {pn : Panel} {k : Nat} (h : pn.col.toNat + k ≤ pn.winEnd.toNat) :
    (pn.columnAfter k).toNat = pn.col.toNat + k := by
  induction k with
  | zero => rfl
  | succ k ih =>
    have hk := ih (by omega)
    rw [columnAfter_succ_of_lt (by omega), hk, Nat.add_assoc]

/-- From the window's end the column goes to its start (R75). -/
theorem Panel.columnAfter_succ_of_end {pn : Panel} {k : Nat} (h : pn.columnAfter k = pn.winEnd) :
    pn.columnAfter (k + 1) = pn.winStart := by
  simp [columnAfter, h]

/-- Past the end of a window of eight columns or more, eight bytes go on from its start (R75, R177). -/
theorem Panel.columnAfter_wrapped {pn : Panel} {k : Nat} (hc : pn.col ≤ pn.winEnd)
    (hw : pn.winStart.toNat + 7 ≤ pn.winEnd.toNat) (hk : k ≤ 8) (h : pn.winEnd.toNat < pn.col.toNat + k) :
    (pn.columnAfter k).toNat = pn.winStart.toNat + (pn.col.toNat + k - pn.winEnd.toNat - 1) := by
  rw [BitVec.le_def] at hc
  induction k with
  | zero => omega
  | succ k ih =>
    by_cases hend : pn.col.toNat + k = pn.winEnd.toNat
    · have hlast : pn.columnAfter k = pn.winEnd := BitVec.eq_of_toNat_eq ((columnAfter_within hend.le).trans hend)
      rw [columnAfter_succ_of_end hlast]
      omega
    · have hk := ih (by omega) (by omega)
      rw [columnAfter_succ_of_lt (by omega), hk]
      omega

/-- Eight bytes fall on eight columns where they end within the window. -/
theorem Panel.columnAfter_ne_within {pn : Panel} (h : pn.col.toNat + 7 ≤ pn.winEnd.toNat) {j k : Nat} (hkj : k < j)
    (hj : j < 8) : pn.columnAfter j ≠ pn.columnAfter k := by
  intro heq
  have hcols := congrArg BitVec.toNat heq
  rw [columnAfter_within (by omega), columnAfter_within (by omega)] at hcols
  omega

/-- Eight bytes fall on eight columns where the window has as many. -/
theorem Panel.columnAfter_ne_wrapping {pn : Panel} (hc : pn.col ≤ pn.winEnd)
    (hw : pn.winStart.toNat + 7 ≤ pn.winEnd.toNat) {j k : Nat} (hkj : k < j) (hj : j < 8) :
    pn.columnAfter j ≠ pn.columnAfter k := by
  intro heq
  have hcols := congrArg BitVec.toNat heq
  by_cases hjw : pn.col.toNat + j ≤ pn.winEnd.toNat
  · rw [columnAfter_within hjw, columnAfter_within (by omega)] at hcols
    omega
  rw [columnAfter_wrapped hc hw (by omega) (by omega)] at hcols
  by_cases hkw : pn.col.toNat + k ≤ pn.winEnd.toNat
  · rw [columnAfter_within hkw] at hcols
    omega
  · rw [columnAfter_wrapped hc hw (by omega) (by omega)] at hcols
    omega

/-- A glyph's frame at the panel (R64, R175). -/
theorem panelFold_glyph (p : Params) (pn : Panel) (c : Byte) (d : Option Mode) :
    panelFold p pn (queueEvents d (dataFrame (glyph c))) =
      { pn with ram := pn.ramAfter (Config.glyph (c.toNat - 0x20)) 8, col := pn.columnAfter 8 } := by
  have hevents : queueEvents d (dataFrame (glyph c)) = frameEvents .dat (glyph c) := by
    simpa [dataFrame] using queueEvents_frame d .dat (glyph c) []
  rw [hevents]
  exact panelFold_dataFrame p pn _ 8

/-- Settles O54: the fold writes the eight bytes at the columns the cursor passes, which are distinct where the row ends
within the window or the window has eight columns. -/
theorem glyphLandsAtCursor : Obligations.GlyphLandsAtCursor := by
  intro p pn c d pn' place written
  have hfold : pn' = { pn with ram := pn.ramAfter (Config.glyph (c.toNat - 0x20)) 8, col := pn.columnAfter 8 } :=
    panelFold_glyph p pn c d
  have hwritten (k : Nat) (hk : k < 8) (h : ∀ j, k < j → j < 8 → pn.columnAfter j ≠ pn.columnAfter k) : written k := by
    simp only [written, place, hfold]
    exact Panel.read_ramAfter hk h
  refine ⟨hwritten, fun a ha => ?_, ?_, fun k _ h => Panel.columnAfter_within h, fun h k hk => ?_,
    fun hc hw => ⟨fun k hk => ?_, fun k hk h => Panel.columnAfter_wrapped hc hw hk h⟩⟩
  · rw [hfold]
    exact Panel.read_ramAfter_of_ne (Nat.zero_le 8) fun k _ hk => ha k hk
  · rw [hfold]
  · exact hwritten k hk fun j hkj hj => Panel.columnAfter_ne_within h hkj hj
  · exact hwritten k hk fun j hkj hj => Panel.columnAfter_ne_wrapping hc hw hkj hj

/-! ### A clear at the panel -/

/-- The rest of a command's bytes complete it, where the parser holds those before them (R72). -/
theorem panelFold_params {p : Params} {pn : Panel} {op v : Byte} {got ps : List Byte} (hp : pn.parse = .params op got)
    (hl : got.length + ps.length + 2 = cmdLen p op) :
    panelFold p pn ((v :: ps).map (.byte .cmd)) = panelCommand (op :: (got ++ v :: ps)) { pn with parse := .idle } := by
  induction ps generalizing pn got v with
  | nil =>
    simp only [List.length_nil] at hl
    simp [panelFold, panelStep, hp, show got.length + 1 = cmdLen p op - 1 by omega]
  | cons w ps ih =>
    simp only [List.length_cons] at hl
    have hstep : panelStep p pn (.byte .cmd v) = { pn with parse := .params op (got ++ [v]) } := by
      simp [panelStep, hp, show ¬got.length + 1 = cmdLen p op - 1 by omega]
    show panelFold p (panelStep p pn (.byte .cmd v)) ((w :: ps).map (.byte .cmd)) = _
    rw [hstep, ih rfl (by simp; omega), List.append_assoc]
    rfl

/-- A Command frame of one whole command has the command's effect on a panel that waits for none (R70, R72). -/
theorem panelFold_cmdFrame {p : Params} {pn : Panel} (hp : pn.parse = .idle) {op : Byte} {ps : List Byte}
    (hl : cmdLen p op = ps.length + 1) :
    panelFold p pn (frameEvents .cmd (op :: ps)) = panelCommand (op :: ps) pn := by
  rw [panelFold_frameEvents]
  cases ps with
  | nil => simp_all [panelFold, panelStep]
  | cons v ps =>
    simp only [List.length_cons] at hl
    have hstep : panelStep p pn (.byte .cmd op) = { pn with parse := .params op [] } := by
      simp [panelStep, hp, show ¬cmdLen p op = 1 by omega]
    show panelFold p (panelStep p pn (.byte .cmd op)) ((v :: ps).map (.byte .cmd)) = _
    rw [hstep, panelFold_params rfl (by simp; omega), List.nil_append, ← hp]

/-- The addressing-mode frame leaves the panel as it was (R76, R215). -/
theorem panelFold_addrMode {p : Params} (hwf : p.wf = true) {pn : Panel} (hp : pn.parse = .idle) :
    panelFold p pn (frameEvents .cmd p.addrModeCmd) = pn := by
  have hmem : p.addrModeCmd ∈ p.commands := by simp [Params.commands]
  cases hcmd : p.addrModeCmd with
  | nil => rfl
  | cons op ps =>
    rw [hcmd] at hmem
    obtain ⟨hs, hc⟩ := (Params.wf_opcodes hwf).2 op (Params.mem_opcodes hmem rfl)
    rw [panelFold_cmdFrame hp (cmdLen_of_command hwf hmem rfl), panelCommand_other hs hc]

/-- The page-select frame selects its page (R73). -/
theorem panelFold_pageSelect (p : Params) {pn : Panel} (hp : pn.parse = .idle) {k : Nat} (hk : k < 8) :
    panelFold p pn (frameEvents .cmd [BitVec.ofNat 8 (0xB0 + k)]) = { pn with page := BitVec.ofNat 3 k } := by
  have hop : (BitVec.ofNat 8 (0xB0 + k)).toNat = 0xB0 + k := by rw [BitVec.toNat_ofNat]; omega
  have hsel : isPageSelect (BitVec.ofNat 8 (0xB0 + k)) = true := (isPageSelect_iff _).2 (by omega)
  rw [panelFold_cmdFrame hp (cmdLen_of_pageSelect p hsel), panelCommand, hop, if_pos (by omega),
    Nat.add_sub_cancel_left]

/-- The column-range frame of an address at column 0 sets the whole window (R74). -/
theorem panelFold_columnRange (p : Params) {pn : Panel} (hp : pn.parse = .idle) :
    panelFold p pn (frameEvents .cmd [0x21, 0x00, 0x7F]) = { pn with winStart := 0, winEnd := 127, col := 0 } :=
  panelFold_cmdFrame hp (cmdLen_columnRange p)

/-- The panel at the start of a cleared page's zeros. -/
def Panel.atPage (pn : Panel) (k : Nat) : Panel :=
  { pn with page := BitVec.ofNat 3 k, winStart := 0, winEnd := 127, col := 0 }

/-- The address frames of a cleared page (R168). -/
theorem panelFold_address {p : Params} (hwf : p.wf = true) {pn : Panel} (hp : pn.parse = .idle) {k : Nat}
    (hk : k < 8) : panelFold p pn (frameEvents .cmd p.addrModeCmd ++ frameEvents .cmd [BitVec.ofNat 8 (0xB0 + k)] ++
      frameEvents .cmd [0x21, 0x00, 0x7F]) = pn.atPage k := by
  rw [panelFold_append, panelFold_append, panelFold_addrMode hwf hp, panelFold_pageSelect p hp hk]
  exact panelFold_columnRange p hp

/-- In the whole window the column counts from 0 through 127 (R75). -/
theorem Panel.columnAfter_atPage {pn : Panel} {k j : Nat} (hj : j < 128) :
    ((pn.atPage k).columnAfter j).toNat = j := by
  have hwithin : (pn.atPage k).col.toNat + j ≤ (pn.atPage k).winEnd.toNat := by
    show 0 + j ≤ 127
    omega
  exact (columnAfter_within hwithin).trans (Nat.zero_add j)

/-- The 128th byte takes the column back to 0 (R75). -/
theorem Panel.columnAfter_atPage_all (pn : Panel) (k : Nat) : (pn.atPage k).columnAfter 128 = 0 :=
  columnAfter_succ_of_end (BitVec.eq_of_toNat_eq (columnAfter_atPage (by decide)))

/-- A cleared page's frames at the panel: the address, then 128 zeros (R168, R170). -/
theorem panelFold_pageEvents {p : Params} (hwf : p.wf = true) {pn : Panel} (hp : pn.parse = .idle) {k : Nat}
    (hk : k < 8) :
    panelFold p pn (pageEvents p k) = { pn.atPage k with ram := (pn.atPage k).ramAfter (fun _ => 0) 128 } := by
  have hzeros : List.replicate 128 (0 : Byte) = (List.range 128).map fun _ => 0 := by
    rw [List.map_const', List.length_range]
  rw [pageEvents, panelFold_append, panelFold_address hwf hp hk, hzeros, panelFold_dataFrame,
    Panel.columnAfter_atPage_all]
  rfl

/-- The bytes of the RAM after a page's zeros: those of the page are 0, the others as they were. -/
theorem Panel.read_zeros (pn : Panel) {k : Nat} (hk : k < 8) (q : BitVec 3) (c : BitVec 7) :
    ((pn.atPage k).ramAfter (fun _ => 0) 128).read (128 * q.toNat + c.toNat) =
      if q.toNat = k then some 0 else pn.ram.read (128 * q.toNat + c.toNat) := by
  have hpage : (pn.atPage k).page.toNat = k := by rw [atPage, BitVec.toNat_ofNat]; omega
  have hc := c.isLt
  split_ifs with hq
  · have hcol : ((pn.atPage k).columnAfter c.toNat).toNat = c.toNat := columnAfter_atPage hc
    have hread : ((pn.atPage k).ramAfter (fun _ => 0) 128).read
        (128 * (pn.atPage k).page.toNat + ((pn.atPage k).columnAfter c.toNat).toNat) = some 0 :=
      Panel.read_ramAfter hc fun j hkj hj heq => by
        have hcols := congrArg BitVec.toNat heq
        rw [columnAfter_atPage hj, hcol] at hcols
        omega
    rw [hcol, hpage] at hread
    rw [hq, hread]
  · refine Panel.read_ramAfter_of_ne (Nat.zero_le 128) fun j _ hj => ?_
    rw [columnAfter_atPage hj, hpage]
    omega

/-- What a clear of a row of pages leaves: zeros on the pages, the parser idle, and the cursor at column 0 of the last
page, in the whole window (R170, R171). -/
structure Cleared (pages : List Nat) (pn pn' : Panel) : Prop where
  read : ∀ (q : BitVec 3) (c : BitVec 7), pn'.ram.read (128 * q.toNat + c.toNat) =
    if q.toNat ∈ pages then some 0 else pn.ram.read (128 * q.toNat + c.toNat)
  parse : pn'.parse = .idle
  cursor : ∀ k, pages.getLast? = some k →
    pn'.page = BitVec.ofNat 3 k ∧ pn'.col = 0 ∧ pn'.winStart = 0 ∧ pn'.winEnd = 127

theorem cleared_panelFold {p : Params} (hwf : p.wf = true) {pn : Panel} (hp : pn.parse = .idle) {pages : List Nat}
    (hpages : ∀ k ∈ pages, k < 8) : Cleared pages pn (panelFold p pn (pages.flatMap (pageEvents p))) := by
  induction pages using List.reverseRecOn with
  | nil => exact ⟨fun _ _ => by simp [panelFold], hp, by simp⟩
  | append_singleton pages k ih =>
    have hk : k < 8 := hpages k (by simp)
    obtain ⟨hread, hparse, -⟩ := ih fun j hj => hpages j (by simp [hj])
    rw [List.flatMap_append, List.flatMap_singleton, panelFold_append, panelFold_pageEvents hwf hparse hk]
    refine ⟨fun q c => ?_, hparse, fun j hj => ?_⟩
    · rw [Panel.read_zeros _ hk, hread]
      by_cases hq : q.toNat = k <;> simp [hq]
    · rw [List.getLast?_concat, Option.some_inj] at hj
      subst hj
      exact ⟨rfl, rfl, rfl, rfl⟩

/-- The last selected page is selected, and none above it is (R170). -/
theorem last_selectedPages {mask : Byte} {k : Nat} (h : (selectedPages mask).getLast? = some k) :
    (k < 8 ∧ mask.getLsbD k = true) ∧ ∀ j, k < j → mask.getLsbD j = false := by
  have hmem := mem_selectedPages.1 (List.mem_of_getLast? h)
  refine ⟨hmem, fun j hj => ?_⟩
  by_contra hbit
  have hset : mask.getLsbD j = true := by simpa using hbit
  have hjmem : j ∈ selectedPages mask := mem_selectedPages.2 ⟨BitVec.lt_of_getLsbD hset, hset⟩
  obtain ⟨l, hl⟩ := List.getLast?_eq_some_iff.1 h
  have hsorted := selectedPages_pairwise mask
  rw [hl] at hjmem hsorted
  rcases List.mem_append.1 hjmem with hin | hin
  · obtain ⟨-, -, hbelow⟩ := List.pairwise_append.1 hsorted
    exact absurd (hbelow j hin k (by simp)) hj.not_gt
  · exact absurd (List.mem_singleton.1 hin) hj.ne'

/-- Settles O53: the fold clears the selected pages one after the other, and stands at the last of them. -/
theorem clearZeroesSelectedPages : Obligations.ClearZeroesSelectedPages := by
  intro p pn mask d hwf hp pn'
  have hcleared : Cleared (selectedPages mask) pn pn' := by
    have h := cleared_panelFold hwf hp fun k hk => (mem_selectedPages (mask := mask).1 hk).1
    rwa [← queueEvents_clearOps d] at h
  refine ⟨fun k c => ?_, hcleared.parse, fun hmask => ?_⟩
  · have hk := k.isLt
    simpa [hk] using hcleared.read k c
  · obtain ⟨k, hk⟩ := Option.ne_none_iff_exists'.1 (mt (List.getLast?_eq_none_iff.trans selectedPages_eq_nil).1 hmask)
    obtain ⟨hpage, hcol, hstart, hend⟩ := hcleared.cursor k hk
    obtain ⟨⟨hk8, hbit⟩, habove⟩ := last_selectedPages hk
    have hpageNat : pn'.page.toNat = k := by rw [hpage, BitVec.toNat_ofNat]; omega
    rw [hpageNat]
    exact ⟨hcol, hstart, hend, hbit, habove⟩

end Sys2Proof.Machine

namespace Sys2Proof.Machine

/-! ### The sequencer's requests -/

/-- Whatever word is written to REQ, an expansion is offered for acceptance (R160). -/
theorem writeReq_eq (w : Word) (s : State) : ∃ e, writeReq w s = .next (acceptRequest e s) := by
  unfold writeReq
  split
  · next i hi =>
    obtain ⟨e, -, hx⟩ := exec_request (decodeReq_isRequest hi) s
    exact ⟨e, hx⟩
  · exact ⟨_, rfl⟩

/-- Settles O16: a quiescent block accepts no expansion. -/
theorem quiescentIgnoresRequests : Obligations.QuiescentIgnoresRequests := by
  intro s h
  have hq := (State.quiescent_iff s).2 h
  refine ⟨fun i hi => ?_, fun w => ?_⟩
  · obtain ⟨e, -, hx⟩ := exec_request hi s
    rw [hx, acceptRequest_quiescent e hq]
  · obtain ⟨e, hx⟩ := writeReq_eq w s
    rw [hx, acceptRequest_quiescent e hq]

/-- Settles O17: a busy block answers every expansion with the one fault. -/
theorem busyRequestFaults : Obligations.BusyRequestFaults := by
  intro s hf hr hb
  have hq := (State.quiescent_false_iff s).2 ⟨hf, hr⟩
  have hraise (e : Expansion) : acceptRequest e s = { s with fault := 0x4, q := [], busy := false } := by
    rw [acceptRequest_busy e hq hb, State.raise, hf]
    rfl
  refine ⟨fun i hi => ?_, fun w => ?_⟩
  · obtain ⟨e, -, hx⟩ := exec_request hi s
    rw [hx, hraise]
  · obtain ⟨e, hx⟩ := writeReq_eq w s
    rw [hx, hraise]

/-- Settles O15: the refusal leaves the block quiescent. -/
theorem testIsRefused : Obligations.TestIsRefused := by
  refine ⟨fun p id => ?_, fun s id h => ⟨?_, fun i hi => ?_⟩⟩
  · simp [encode, reqWord]
  · show Host.Outcome.next (acceptRequest .refuse s) = _
    rw [acceptRequest_refuse h]
    rfl
  · obtain ⟨hrequests, -⟩ := quiescentIgnoresRequests { s with refused := true } (.inr rfl)
    exact hrequests i hi

/-- Settles O21: the micro-op has no check, and its one write is its whole effect. -/
theorem stateMicroOpMovesEngine : Obligations.StateMicroOpMovesEngine := fun _ _ _ h => h.step_done (.state _) rfl

/-! ### Expansions -/

@[simp] theorem frame_ne_nil (m : Mode) (bs : List Byte) : frame m bs ≠ [] := by simp [frame]

theorem exec_ops_of_ne_nil {i : Instr} {s : State} {l : List MicroOp} (h : Accepting s) (hi : isRequest i = true)
    (he : expand i s = some (.ops l)) (hl : l ≠ []) : exec i s = .next { s with q := l, busy := true } := by
  rw [exec_ops h hi he, decide_eq_true hl]

/-- An empty expansion changes nothing where no request runs, in a quiescent block too (R160). -/
theorem exec_nothing {i : Instr} {s : State} (hi : isRequest i = true) (he : expand i s = some (.ops []))
    (hb : s.busy = false) (hq : s.q = []) : exec i s = .next s := by
  obtain ⟨e, he', hx⟩ := exec_request hi s
  obtain rfl := Option.some.inj (he'.symm.trans he)
  rw [hx]
  cases hn : s.quiescent with
  | true => rw [acceptRequest_quiescent _ hn]
  | false =>
    obtain ⟨hf, hr⟩ := (State.quiescent_false_iff s).1 hn
    have hsame : { s with q := [], busy := false } = s := by rw [← hq, ← hb]
    rw [acceptRequest_ops [] ⟨hf, hr, hb⟩]
    exact congrArg Host.Outcome.next hsame

theorem expand_init_fault {s : State} (hs : s.seqState = .initializing ∨ s.seqState = .ready) :
    expand .init s = some (.fault .reinit) := by
  simp only [expand, expandInit, if_pos hs]

/-- The power-up, its init frames written as a row of frames. -/
theorem powerUpOps_eq_frames (t : Params) : powerUpOps t =
    [.state .initializing] ++ (t.initTable.map (frame .cmd)).flatten ++ clearOps t 0xFF ++ frame .cmd t.addrModeCmd ++
      frame .cmd t.displayOnCmd ++ [.state .ready] := by
  rw [powerUpOps, List.flatMap_def]
  rfl

/-- Settles O9: INIT's expansion by the engine's state. -/
theorem initExpands : Obligations.InitExpands := by
  intro s h
  refine ⟨fun hs => ?_, fun hs => ?_, fun hs hq => exec_fault h rfl (expand_init_fault hs) hq⟩
  · have hops := expand_init_ops (.inl hs)
    rw [hs, initOps, if_pos rfl, powerUpOps_eq_frames] at hops
    simpa [configureOps] using exec_ops_of_ne_nil h rfl hops (by simp)
  · have hops := expand_init_ops (.inr hs)
    rw [hs, initOps, if_neg (by decide), List.nil_append, powerUpOps_eq_frames] at hops
    exact exec_ops_of_ne_nil h rfl hops (by simp)

/-! Outside READY each display request's expansion is a fault, before any other check (R167, R170, R173). -/

theorem expand_setAddress_notReady {s : State} (hs : s.seqState ≠ .ready) (x p : Byte) :
    expand (.setAddress x p) s = some (.fault .notReady) := by
  simp only [expand, expandSetAddress, if_pos hs]

theorem expand_clear_notReady {s : State} (hs : s.seqState ≠ .ready) (mask : Byte) :
    expand (.clear mask) s = some (.fault .notReady) := by
  simp only [expand, expandClear, if_pos hs]

theorem expand_putChar_notReady {s : State} (hs : s.seqState ≠ .ready) (c : Byte) :
    expand (.putChar c) s = some (.fault .notReady) := by
  simp only [expand, expandPutChar, if_pos hs]

theorem addressInRange_iff (x p : Byte) : addressInRange x p = true ↔ x.toNat ≤ 15 ∧ p.toNat ≤ 7 := by
  simp [addressInRange, BitVec.le_def]

theorem expand_setAddress_ready {x p : Byte} {s : State} (hs : s.seqState = .ready) : expand (.setAddress x p) s =
    some (if addressInRange x p then .ops (addressOps s.params x p) else .fault .addressOutOfRange) := by
  cases h : addressInRange x p <;> simp [expand, expandSetAddress, hs, h]

/-- A page's opcode does not wrap (R179). -/
theorem pageOpcode_toNat {p : Byte} (hp : p.toNat ≤ 7) : (pageOpcode p).toNat = 0xB0 + p.toNat := by
  have hbase : Config.pageBaseOpcode.toNat = 0xB0 := rfl
  rw [pageOpcode, BitVec.toNat_add, hbase]
  omega

/-- A cell's column does not wrap (R179). -/
theorem columnOfCell_toNat {x : Byte} (hx : x.toNat ≤ 15) : (columnOfCell x).toNat = 8 * x.toNat := by
  have hcell : (8 : Byte).toNat = 8 := rfl
  rw [columnOfCell, BitVec.toNat_mul, hcell]
  omega

/-- Settles O10: within the operands' range neither byte wraps. -/
theorem setAddressExpands : Obligations.SetAddressExpands := by
  intro s x p h
  refine ⟨fun hs hx hp => ⟨pageOpcode p, columnOfCell x, ?_, ?_, ?_⟩,
    fun hq hs => exec_fault h rfl (expand_setAddress_notReady hs x p) hq,
    fun hq hs hrange => exec_fault (c := .addressOutOfRange) h rfl ?_ hq⟩
  · exact pageOpcode_toNat hp
  · exact columnOfCell_toNat hx
  · have hops := expand_setAddress_ready (x := x) (p := p) hs
    rw [if_pos ((addressInRange_iff x p).2 ⟨hx, hp⟩)] at hops
    exact exec_ops_of_ne_nil h rfl hops (by simp)
  · rw [expand_setAddress_ready hs, if_neg (mt (addressInRange_iff x p).1 (by omega))]

theorem expand_clear_ready {mask : Byte} {s : State} (hs : s.seqState = .ready) :
    expand (.clear mask) s = some (.ops (clearOps s.params mask)) := by
  simp [expand, expandClear, hs]

theorem clearOps_eq_nil_iff (t : Params) (mask : Byte) : clearOps t mask = [] ↔ mask = 0 := by
  rw [← selectedPages_eq_nil, clearOps_eq, framesOps_clearFrames, List.flatMap_eq_nil_iff,
    List.eq_nil_iff_forall_not_mem]
  exact forall₂_congr fun k _ => by simp [pageFrames]

/-- Settles O11: the pages are those whose mask bit is 1, in ascending order. -/
theorem clearExpands : Obligations.ClearExpands := by
  intro s mask h
  refine ⟨fun hs hmask => ⟨selectedPages mask, selectedPages_pairwise mask, fun k => mem_selectedPages, ?_⟩,
    fun hs hq => ?_, fun hq hs => exec_fault h rfl (expand_clear_notReady hs mask) hq⟩
  · rw [exec_ops_of_ne_nil h rfl (expand_clear_ready hs) (mt (clearOps_eq_nil_iff _ _).1 hmask), clearOps_eq,
      framesOps_clearFrames]
    simp only [pageFrames, framesOps_cons, framesOps_nil, List.append_assoc, List.append_nil]
  · have hops := expand_clear_ready (mask := 0) hs
    rw [(clearOps_eq_nil_iff _ _).2 rfl] at hops
    obtain ⟨-, -, hb⟩ := h
    exact exec_nothing rfl hops hb hq

theorem bit7_iff (c : Byte) : c.getLsbD 7 = true ↔ 0x80 ≤ c.toNat := by
  revert c; decide

/-- The seven-bit codes outside the glyph table (R64). -/
theorem noGlyph_iff {c : Byte} (h : c.toNat < 0x80) :
    c < Config.glyphFirst ∨ Config.glyphLast < c ↔ c.toNat < 0x20 ∨ c.toNat = 0x7F := by
  have hfirst : Config.glyphFirst.toNat = 0x20 := rfl
  have hlast : Config.glyphLast.toNat = 0x7E := rfl
  rw [BitVec.lt_def, BitVec.lt_def, hfirst, hlast]
  omega

/-- What PUT_CHAR does in READY, by the code (R173). -/
theorem expand_putChar_ready (c : Byte) {s : State} (hs : s.seqState = .ready) : expand (.putChar c) s =
    some (if 0x80 ≤ c.toNat then .ops []
      else if c.toNat < 0x20 ∨ c.toNat = 0x7F then .fault .glyphOutOfRange else .ops (dataFrame (glyph c))) := by
  show some (expandPutChar c s) = _
  rw [expandPutChar, if_neg (not_not.2 hs)]
  simp only [bit7_iff]
  by_cases hhigh : 0x80 ≤ c.toNat
  · rw [if_pos hhigh, if_pos hhigh]
  · rw [if_neg hhigh, if_neg hhigh]
    simp only [noGlyph_iff (Nat.lt_of_not_le hhigh)]

/-- Settles O13: the printable codes, the codes without a glyph, and any code outside READY. -/
theorem putCharCases : Obligations.PutCharCases := by
  intro s c h
  refine ⟨fun hs hlow hhigh => ?_, fun hq hs hrange => exec_fault (c := .glyphOutOfRange) h rfl ?_ hq,
    fun hq hs => exec_fault h rfl (expand_putChar_notReady hs c) hq⟩
  · have hops := expand_putChar_ready c hs
    rw [if_neg (by omega), if_neg (by omega)] at hops
    exact exec_ops_of_ne_nil h rfl hops (by simp)
  · rw [expand_putChar_ready c hs, if_neg (by omega), if_pos hrange]

/-- Settles O14: the empty queue is what the block has where no request runs. -/
theorem highBitCodesDoNothing : Obligations.HighBitCodesDoNothing := by
  intro s c hs hb hq hc
  have hops := expand_putChar_ready c hs
  rw [if_pos hc] at hops
  exact exec_nothing rfl hops hb hq

end Sys2Proof.Machine

namespace Sys2Proof.Machine

/-! ### Which parameter sets a launch accepts (R7, R124, R200) -/

theorem Params.commands_ne_nil {p : Params} (hlengths : p.initTable.map List.length = Config.initLengths)
    (hmode : 1 ≤ p.addrModeCmd.length) (hon : 1 ≤ p.displayOnCmd.length) : ∀ c ∈ p.commands, c ≠ [] := by
  intro c hc
  rw [Params.commands, List.mem_append] at hc
  rcases hc with hinit | hlast
  · have hmem : c.length ∈ Config.initLengths := hlengths ▸ List.mem_map_of_mem hinit
    have hpos : ∀ n ∈ Config.initLengths, 0 < n := by decide
    exact List.ne_nil_of_length_pos (hpos _ hmem)
  · simp only [List.mem_cons, List.not_mem_nil, or_false] at hlast
    rcases hlast with rfl | rfl
    · exact List.ne_nil_of_length_pos hmode
    · exact List.ne_nil_of_length_pos hon

/-- Where no command is empty, the opcodes are the first bytes, one a command. -/
theorem Params.opcodes_eq_map_headD {p : Params} (h : ∀ c ∈ p.commands, c ≠ []) :
    p.opcodes = p.commands.map fun c => c.headD 0 := by
  refine List.filterMap_eq_map_iff_forall_eq_some.2 fun c hc => ?_
  obtain ⟨op, ps, rfl⟩ := List.exists_cons_of_ne_nil (h c hc)
  rfl

/-- An opcode that is no fixed form's: neither a page select nor the column range (R98, R200). -/
theorem notFixedForm_iff (op : Byte) : (!isPageSelect op && op != Config.columnRangeOpcode) = true ↔
    ¬(0xB0 ≤ op.toNat ∧ op.toNat ≤ 0xB7) ∧ op ≠ 0x21 := by
  rw [Bool.and_eq_true, Bool.not_eq_true', bne_iff_ne, ← isPageSelect_iff, Bool.not_eq_true]
  rfl

theorem Params.tablesWf_iff (p : Params) : p.tablesWf = true ↔
    p.initTable.map List.length = Config.initLengths ∧ 1 ≤ p.addrModeCmd.length ∧ 1 ≤ p.displayOnCmd.length ∧
      (p.commands.map fun c => c.headD 0).Pairwise (· ≠ ·) ∧
      ∀ b ∈ p.commands.map fun c => c.headD 0, ¬(0xB0 ≤ b.toNat ∧ b.toNat ≤ 0xB7) ∧ b ≠ 0x21 := by
  simp only [Params.tablesWf, Bool.and_eq_true, beq_iff_eq, decide_eq_true_eq, List.all_eq_true, ← notFixedForm_iff,
    and_assoc]
  refine and_congr_right fun hlengths => and_congr_right fun hmode => and_congr_right fun hon => ?_
  rw [Params.opcodes_eq_map_headD (Params.commands_ne_nil hlengths hmode hon), List.Nodup]

theorem Params.clockWf_iff (p : Params) : p.clockWf = true ↔ 0 < p.fRef ∧ p.fRef ≤ 512 * 10000000 := by
  rw [Params.clockWf, Bool.and_eq_true, decide_eq_true_eq, decide_eq_true_eq, Config.fSckMax]

theorem Params.wf_iff (p : Params) : p.wf = true ↔ p.tablesWf = true ∧ p.clockWf = true ∧ p.hostBase % 4 = 0 := by
  rw [Params.wf, Bool.and_eq_true, Bool.and_eq_true, decide_eq_true_eq, and_assoc]

theorem Params.default_wf : Params.default.wf = true := by
  have htables : Params.default.tablesWf = true := by decide
  have hclock : Params.default.clockWf = true :=
    (Params.clockWf_iff _).2 ⟨Nat.succ_pos _, Config.fRefIndex.isLt⟩
  exact (Params.wf_iff _).2 ⟨htables, hclock, Nat.mul_mod_right 4 _⟩

theorem launch_of_wf {p : Params} (h : p.wf = true) : launch p = .next (.ofParams p) := if_pos h

theorem launch_of_not_wf {p : Params} (h : ¬p.wf = true) : launch p = .refused .illFormedParameters := if_neg h

/-- Settles O59: the Boolean check says the written-out conditions, since no accepted command is empty and so each has
the first byte that the conditions speak of. -/
theorem launchRefusesIllFormed : Obligations.LaunchRefusesIllFormed := by
  refine ⟨fun p => ?_, launch_of_wf Params.default_wf, fun p hfast => launch_of_not_wf fun hwf => ?_⟩
  · have hiff := Params.wf_iff p
    simp only [Params.tablesWf_iff, Params.clockWf_iff, and_assoc] at hiff
    exact ⟨fun h => launch_of_wf (hiff.2 h), fun h => launch_of_not_wf (mt hiff.1 h)⟩
  · obtain ⟨-, hclock, -⟩ := (Params.wf_iff p).1 hwf
    exact absurd ((Params.clockWf_iff p).1 hclock).2 (Nat.not_le_of_lt hfast)

end Sys2Proof.Machine

namespace Sys2Proof.Machine

/-! ### A quiescent block (R234) -/

/-- SEQ has no step in a quiescent block (R234). -/
theorem SeqMove.of_quiescent {s t : State} (h : SeqMove s t) (hq : s.quiescent = true) : t = s := by
  cases h with
  | stay => rfl
  | done u rest s' _ hn => exact absurd (hn.symm.trans hq) Bool.false_ne_true
  | raise u rest c _ hn => exact absurd (hn.symm.trans hq) Bool.false_ne_true

/-- An access to a quiescent block keeps the fields of SHIFT's frame, but for what an ILLEGAL_ACCESS does to them
(R62, R234). -/
theorem HostMove.frame_of_quiescent {s t : State} (h : HostMove s t) (hq : s.quiescent = true) :
    ShiftFrame s t ∨ ShiftFrame (s.raise .illegalAccess) t := by
  cases h with
  | stay => exact .inl (.refl s)
  | reply w => exact .inl { ShiftFrame.refl s with }
  | accept i l hn => exact absurd (hn.symm.trans hq) Bool.false_ne_true
  | raise c hc => rw [hc hq]; exact .inr (.refl _)
  | raiseReply w => exact .inr { ShiftFrame.refl (s.raise .illegalAccess) with }
  | refuse hn => exact absurd (hn.symm.trans hq) Bool.false_ne_true

/-- A step of a quiescent block keeps the fields of SHIFT's frame, but for what an ILLEGAL_ACCESS does to them (R234). -/
theorem step_frame_of_quiescent {s t : State} (h : step s = .next t) (hq : s.quiescent = true) :
    ShiftFrame s t ∨ ShiftFrame (s.raise .illegalAccess) t := by
  obtain ⟨tn, -, hm⟩ := step_move h
  rcases hm.byAgent with ⟨rest, hh⟩ | hs | hf
  · exact (hh.frame_of_quiescent hq).imp (fun hf => { hf with }) (fun hf => { hf with })
  · rw [hs.of_quiescent hq]
    exact .inl { ShiftFrame.refl s with }
  · exact .inl { hf with }

/-- Settles O39: the invariant empties a quiescent block's queue, the fault action empties it again, and nothing else
that a step may do there touches the fields in question. -/
theorem quiescentBlockStaysPut : Obligations.QuiescentBlockStaysPut := by
  intro s t hi hquiet hstep
  have hq := (State.quiescent_iff s).2 hquiet
  have hempty : s.q = [] := hi.quiet hq
  have hbusy : s.busy = false := by simpa [hempty] using hi.busy_iff
  rcases step_frame_of_quiescent hstep hq with hf | hf
  · exact ⟨.inl hf.fault, hf.refused, hf.seqState, hf.q.trans hempty, hf.busy.trans hbusy, hf.csN, hf.dc⟩
  · exact ⟨.inr hf.fault, hf.refused, hf.seqState, hf.q, hf.busy, hf.csN, hf.dc⟩

end Sys2Proof.Machine

namespace Sys2Proof.Machine

/-! ### Ended runs (R276) -/

/-- The host's turn leaves SHIFT's registers at rest: only SEQ fills the transmit register or starts a software reset. -/
theorem HostMove.shiftIdle {s t : State} (h : HostMove s t) (hidle : ShiftIdle s) : ShiftIdle t := by
  cases h <;> exact ⟨hidle.swrstBusy, hidle.txbuf, hidle.shift⟩

/-! What SEQ's enabling reads holds neither replies nor the accesses to come, and a fault leaves SEQ no micro-op (R232). -/

@[simp] theorem turnEnabled_seq_reply (s : State) (w : Word) : turnEnabled .seq (s.reply w) = turnEnabled .seq s :=
  turnEnabled_seq_congr rfl rfl rfl rfl rfl rfl rfl

@[simp] theorem turnEnabled_seq_hostIn (s : State) (l : List HostAccess) :
    turnEnabled .seq { s with hostIn := l } = turnEnabled .seq s :=
  turnEnabled_seq_congr rfl rfl rfl rfl rfl rfl rfl

@[simp] theorem turnEnabled_seq_raise (s : State) (c : FaultCause) : turnEnabled .seq (s.raise c) = false := rfl

/-- An access that writes no request enables no step of SEQ: a reply keeps all that SEQ reads, and ILLEGAL_ACCESS empties
the queue (R61, R62, R232). -/
theorem seq_disabled_of_noRequest {a : HostAccess} {s t : State} (ha : a.writesRequest = false)
    (hseq : turnEnabled .seq s = false) (h : hostAccess a s = .next t) : turnEnabled .seq t = false := by
  obtain ⟨u, hu, heffect⟩ := hostAccess_noRequest ha s
  cases hu.symm.trans h
  rcases heffect with ⟨w, rfl⟩ | rfl | ⟨w, rfl⟩
  · rwa [turnEnabled_seq_reply]
  · exact turnEnabled_seq_raise s _
  · rw [turnEnabled_seq_reply, turnEnabled_seq_raise]

theorem Ended.beginStep {s : State} (h : Ended s) : Ended s.beginStep := by
  obtain ⟨hreq, hseq, hshift⟩ := h
  exact ⟨hreq, (turnEnabled_beginStep _ s).trans hseq, fun tn ht => (turnEnabled_beginStep tn s).trans (hshift tn ht)⟩

/-- The host's turn keeps a run ended and writes no event: what the host has left is a read or an illegal access. -/
theorem Ended.after_hostTurn {s t : State} (he : Ended s) (hidle : ShiftIdle s) (h : hostTurn s = .next t) :
    Ended t ∧ t.trace = s.trace := by
  rcases hostTurn_move s with ⟨-, hstay⟩ | ⟨a, rest, u, hin, haccess, hm⟩
  · cases hstay.symm.trans h
    exact ⟨he, rfl⟩
  · cases haccess.symm.trans h
    obtain ⟨hreq, hseq, -⟩ := he
    rw [hin, List.forall_mem_cons] at hreq
    obtain ⟨ha, hrest⟩ := hreq
    rw [← turnEnabled_seq_hostIn s rest] at hseq
    rw [hostTurn, hin] at haccess
    have hidle' : ShiftIdle t := hm.shiftIdle { hidle with }
    exact ⟨⟨hm.hostIn_eq ▸ hrest, seq_disabled_of_noRequest ha hseq haccess, fun _ => hidle'.disabled⟩, hm.trace_eq⟩

/-- An ended run stays ended, and its trace as it was: a step is the host's, or one of an agent with no enabled step. -/
theorem Ended.after_step {s t : State} (he : Ended s) (hidle : ShiftIdle s) (h : step s = .next t) :
    Ended t ∧ t.trace = s.trace := by
  have ⟨_, hseq, hshift⟩ := he
  have of_disabled (hd : turnEnabled s.nextTurn s = false) : Ended t ∧ t.trace = s.trace := by
    cases (step_idle hd).symm.trans h
    exact ⟨he.beginStep, rfl⟩
  rcases turn_byAgent s.nextTurn with hturn | hturn | hturn
  · exact he.beginStep.after_hostTurn { hidle with } ((step_of_turn hturn).symm.trans h)
  · exact of_disabled (hturn ▸ hseq)
  · exact of_disabled (hshift _ hturn)

/-- A run that has ended has one of the four ends, where a block that is busy holds (R276). -/
theorem Ended.cases {s : State} (he : Ended s) (hb : s.busy = false ∨ seqHolding s = true) :
    Successful s ∨ FaultedEnd s ∨ RefusedEnd s ∨ Hung s := by
  by_cases hfault : s.fault = 0
  · rcases hrefused : s.refused with _ | _
    · rcases hbusy : s.busy with _ | _
      · exact .inl ⟨he, hfault, hrefused, hbusy⟩
      · exact .inr (.inr (.inr ⟨he, hbusy, hb.resolve_left (by simp [hbusy])⟩))
    · exact .inr (.inr (.inl ⟨he, hrefused⟩))
  · exact .inr (.inl ⟨he, hfault⟩)

/-- Settles O57: the disabled turns of SHIFT put its registers at rest, the disabled turn of SEQ leaves it idle or
holding, and no access left to the host changes either. -/
theorem endedRunsAreIdle : Obligations.EndedRunsAreIdle := by
  intro s hi he
  have ⟨_, hseq, hshift⟩ := he
  have hidle : ShiftIdle s := hi.shiftIdle hshift
  have hbusy : s.busy = false ∨ seqHolding s = true := by
    rcases hh : seqHolding s with _ | _
    · exact .inl (hi.not_busy hseq hh)
    · exact .inr rfl
  exact ⟨hidle.swrstBusy, hidle.txbuf, hidle.shift, hbusy, he.cases hbusy, fun t h => he.after_step hidle h⟩

end Sys2Proof.Machine
